-- ==== Sys2Proof/Word.lean ====
section
/-!
DEFINITION. The widths of the machine's values (spec/00_scope.md R6): bytes, 16-bit words, register
numbers and key numbers.
-/

namespace Sys2Proof

/-- An 8-bit value: a general register, a timer, a memory byte (R6 `REG_BITS`, `TIMER_BITS`). -/
abbrev Byte := BitVec 8

/-- A 16-bit value: `pc`, `I`, a stack entry, an instruction word (R6 `PC_BITS`, `I_BITS`, R91). -/
abbrev Word := BitVec 16

/-- The number of a general register; every 4-bit field value names one (R20). -/
abbrev Reg := Fin 16

/-- The number of a key, 0x0 to 0xF (R36). -/
abbrev Key := Fin 16

end Sys2Proof
end

