-- ==== Sys2Proof/Syntax.lean ====
section
/-!
DEFINITION. The 34 instructions of spec/30_encoding.md R96, one constructor per row of
spec/opcode_table.json, named by the row's pattern (R102: "The pattern is the mnemonic").
-/

namespace Sys2Proof

/-- An instruction with its operand fields (R92, R93): `x`, `y` register numbers, `n` a 4-bit, `nn`
an 8-bit and `nnn` a 12-bit immediate. Every value of every field is an instruction's (R20, R93). -/
inductive Instr where
  | op00E0
  | op00EE
  | op1NNN (nnn : BitVec 12)
  | op2NNN (nnn : BitVec 12)
  | op3XNN (x : Reg) (nn : Byte)
  | op4XNN (x : Reg) (nn : Byte)
  | op5XY0 (x y : Reg)
  | op6XNN (x : Reg) (nn : Byte)
  | op7XNN (x : Reg) (nn : Byte)
  | op8XY0 (x y : Reg)
  | op8XY1 (x y : Reg)
  | op8XY2 (x y : Reg)
  | op8XY3 (x y : Reg)
  | op8XY4 (x y : Reg)
  | op8XY5 (x y : Reg)
  | op8XY6 (x y : Reg)
  | op8XY7 (x y : Reg)
  | op8XYE (x y : Reg)
  | op9XY0 (x y : Reg)
  | opANNN (nnn : BitVec 12)
  | opBNNN (nnn : BitVec 12)
  | opCXNN (x : Reg) (nn : Byte)
  | opDXYN (x y : Reg) (n : BitVec 4)
  | opEX9E (x : Reg)
  | opEXA1 (x : Reg)
  | opFX07 (x : Reg)
  | opFX0A (x : Reg)
  | opFX15 (x : Reg)
  | opFX18 (x : Reg)
  | opFX1E (x : Reg)
  | opFX29 (x : Reg)
  | opFX33 (x : Reg)
  | opFX55 (x : Reg)
  | opFX65 (x : Reg)
  deriving DecidableEq, Repr

/-- The row of spec/opcode_table.json an instruction belongs to, by its number in R96 less one. -/
def Instr.rowIndex : Instr → Nat
  | .op00E0 => 0
  | .op00EE => 1
  | .op1NNN _ => 2
  | .op2NNN _ => 3
  | .op3XNN _ _ => 4
  | .op4XNN _ _ => 5
  | .op5XY0 _ _ => 6
  | .op6XNN _ _ => 7
  | .op7XNN _ _ => 8
  | .op8XY0 _ _ => 9
  | .op8XY1 _ _ => 10
  | .op8XY2 _ _ => 11
  | .op8XY3 _ _ => 12
  | .op8XY4 _ _ => 13
  | .op8XY5 _ _ => 14
  | .op8XY6 _ _ => 15
  | .op8XY7 _ _ => 16
  | .op8XYE _ _ => 17
  | .op9XY0 _ _ => 18
  | .opANNN _ => 19
  | .opBNNN _ => 20
  | .opCXNN _ _ => 21
  | .opDXYN _ _ _ => 22
  | .opEX9E _ => 23
  | .opEXA1 _ => 24
  | .opFX07 _ => 25
  | .opFX0A _ => 26
  | .opFX15 _ => 27
  | .opFX18 _ => 28
  | .opFX1E _ => 29
  | .opFX29 _ => 30
  | .opFX33 _ => 31
  | .opFX55 _ => 32
  | .opFX65 _ => 33

end Sys2Proof
end

