-- ==== Sys2Proof/WellFormed.lean ====
section
/-!
DEFINITION. Which instruction words are well formed: the opcode map of spec/30_encoding.md R96 as a
table of masks and patterns, kept apart from the two-level decoder of Sys2Proof/Decode.lean so that
each can be held against the other. An `Instr` itself needs no check: "every field value names a
register and no register index is ever out of range" (R20), and every immediate is used as is (R93).
-/

namespace Sys2Proof

/-- A row of the opcode map of R96. -/
structure OpcodeRow where
  mnemonic : String
  pattern : Word
  mask : Word
  deriving DecidableEq, Repr

/-- "A word `w` is the instruction of a row when `w AND mask = match`" (R96). -/
def OpcodeRow.accepts (r : OpcodeRow) (w : Word) : Bool :=
  (w &&& r.mask) == r.pattern

/-- Rows 1 to 9 of R96. -/
def opcodeRows1 : List OpcodeRow :=
  [ ⟨"00E0", 0x00E0, 0xFFFF⟩, ⟨"00EE", 0x00EE, 0xFFFF⟩, ⟨"1NNN", 0x1000, 0xF000⟩,
    ⟨"2NNN", 0x2000, 0xF000⟩, ⟨"3XNN", 0x3000, 0xF000⟩, ⟨"4XNN", 0x4000, 0xF000⟩,
    ⟨"5XY0", 0x5000, 0xF00F⟩, ⟨"6XNN", 0x6000, 0xF000⟩, ⟨"7XNN", 0x7000, 0xF000⟩ ]

/-- Rows 10 to 23 of R96. -/
def opcodeRows2 : List OpcodeRow :=
  [ ⟨"8XY0", 0x8000, 0xF00F⟩, ⟨"8XY1", 0x8001, 0xF00F⟩, ⟨"8XY2", 0x8002, 0xF00F⟩,
    ⟨"8XY3", 0x8003, 0xF00F⟩, ⟨"8XY4", 0x8004, 0xF00F⟩, ⟨"8XY5", 0x8005, 0xF00F⟩,
    ⟨"8XY6", 0x8006, 0xF00F⟩, ⟨"8XY7", 0x8007, 0xF00F⟩, ⟨"8XYE", 0x800E, 0xF00F⟩,
    ⟨"9XY0", 0x9000, 0xF00F⟩, ⟨"ANNN", 0xA000, 0xF000⟩, ⟨"BNNN", 0xB000, 0xF000⟩,
    ⟨"CXNN", 0xC000, 0xF000⟩, ⟨"DXYN", 0xD000, 0xF000⟩ ]

/-- Rows 24 to 34 of R96. -/
def opcodeRows3 : List OpcodeRow :=
  [ ⟨"EX9E", 0xE09E, 0xF0FF⟩, ⟨"EXA1", 0xE0A1, 0xF0FF⟩, ⟨"FX07", 0xF007, 0xF0FF⟩,
    ⟨"FX0A", 0xF00A, 0xF0FF⟩, ⟨"FX15", 0xF015, 0xF0FF⟩, ⟨"FX18", 0xF018, 0xF0FF⟩,
    ⟨"FX1E", 0xF01E, 0xF0FF⟩, ⟨"FX29", 0xF029, 0xF0FF⟩, ⟨"FX33", 0xF033, 0xF0FF⟩,
    ⟨"FX55", 0xF055, 0xF0FF⟩, ⟨"FX65", 0xF065, 0xF0FF⟩ ]

/-- The opcode map, "the complete opcode surface" (R96), in the document's order. -/
def opcodeMap : List OpcodeRow := opcodeRows1 ++ opcodeRows2 ++ opcodeRows3

/-- A word is well formed when some row of the opcode map accepts it; every other word is unknown
(R94, R95, R99). -/
def wellFormed (w : Word) : Bool := opcodeMap.any (·.accepts w)

end Sys2Proof
end

