-- ==== Sys2Proof/Decode.lean ====
section
/-!
DEFINITION. Decoding an instruction word, family first and then the secondary field
(spec/30_encoding.md R91, R94, R95), rejecting by name; then the encoder, from the formats of R92.
-/

namespace Sys2Proof

/-- Why some bytes are not an instruction. -/
inductive Reject where
  /-- The word matches no row of the opcode map (R94, R99). -/
  | unknownOpcode (w : Word)
  /-- Fewer than the two bytes every instruction has (R90). A fetch never meets this. -/
  | truncated
  deriving DecidableEq, Repr

/-! ### Fields of the instruction word (R91) -/

/-- `F = w[15:12]`. -/
def fieldF (w : Word) : BitVec 4 := w.extractLsb' 12 4

/-- `X = w[11:8]`, a register number. -/
def fieldX (w : Word) : Reg := (w.extractLsb' 8 4).toFin

/-- `Y = w[7:4]`, a register number. -/
def fieldY (w : Word) : Reg := (w.extractLsb' 4 4).toFin

/-- `N = w[3:0]`. -/
def fieldN (w : Word) : BitVec 4 := w.extractLsb' 0 4

/-- `NN = w[7:0]`. -/
def fieldNN (w : Word) : Byte := w.extractLsb' 0 8

/-- `NNN = w[11:0]`. -/
def fieldNNN (w : Word) : BitVec 12 := w.extractLsb' 0 12

/-! ### The decoder -/

/-- Family 0 "is matched on the whole word" (R94). -/
def decodeFamily0 (w : Word) : Except Reject Instr :=
  if w = 0x00E0 then .ok .op00E0
  else if w = 0x00EE then .ok .op00EE
  else .error (.unknownOpcode w)

/-- Families 5 and 9 require `N = 0` (R95, D7: strict, log 23). -/
def decodeLowZero (i : Instr) (w : Word) : Except Reject Instr :=
  if fieldN w = 0 then .ok i else .error (.unknownOpcode w)

/-- Family 8: the low nibble selects (R94); 8 to D and F are unknown (R95). -/
def decodeFamily8 (w : Word) : Except Reject Instr :=
  match (fieldN w).toNat with
  | 0x0 => .ok (.op8XY0 (fieldX w) (fieldY w))
  | 0x1 => .ok (.op8XY1 (fieldX w) (fieldY w))
  | 0x2 => .ok (.op8XY2 (fieldX w) (fieldY w))
  | 0x3 => .ok (.op8XY3 (fieldX w) (fieldY w))
  | 0x4 => .ok (.op8XY4 (fieldX w) (fieldY w))
  | 0x5 => .ok (.op8XY5 (fieldX w) (fieldY w))
  | 0x6 => .ok (.op8XY6 (fieldX w) (fieldY w))
  | 0x7 => .ok (.op8XY7 (fieldX w) (fieldY w))
  | 0xE => .ok (.op8XYE (fieldX w) (fieldY w))
  | _ => .error (.unknownOpcode w)

/-- Family E: the low byte selects (R94). -/
def decodeFamilyE (w : Word) : Except Reject Instr :=
  match (fieldNN w).toNat with
  | 0x9E => .ok (.opEX9E (fieldX w))
  | 0xA1 => .ok (.opEXA1 (fieldX w))
  | _ => .error (.unknownOpcode w)

/-- Family F: the low byte selects (R94). -/
def decodeFamilyF (w : Word) : Except Reject Instr :=
  match (fieldNN w).toNat with
  | 0x07 => .ok (.opFX07 (fieldX w))
  | 0x0A => .ok (.opFX0A (fieldX w))
  | 0x15 => .ok (.opFX15 (fieldX w))
  | 0x18 => .ok (.opFX18 (fieldX w))
  | 0x1E => .ok (.opFX1E (fieldX w))
  | 0x29 => .ok (.opFX29 (fieldX w))
  | 0x33 => .ok (.opFX33 (fieldX w))
  | 0x55 => .ok (.opFX55 (fieldX w))
  | 0x65 => .ok (.opFX65 (fieldX w))
  | _ => .error (.unknownOpcode w)

/-- Decode one word: "dispatch on the top 4 bits (the "family"), then on a family-specific secondary
field" (R94). -/
def decode (w : Word) : Except Reject Instr :=
  match (fieldF w).toNat with
  | 0x0 => decodeFamily0 w
  | 0x1 => .ok (.op1NNN (fieldNNN w))
  | 0x2 => .ok (.op2NNN (fieldNNN w))
  | 0x3 => .ok (.op3XNN (fieldX w) (fieldNN w))
  | 0x4 => .ok (.op4XNN (fieldX w) (fieldNN w))
  | 0x5 => decodeLowZero (.op5XY0 (fieldX w) (fieldY w)) w
  | 0x6 => .ok (.op6XNN (fieldX w) (fieldNN w))
  | 0x7 => .ok (.op7XNN (fieldX w) (fieldNN w))
  | 0x8 => decodeFamily8 w
  | 0x9 => decodeLowZero (.op9XY0 (fieldX w) (fieldY w)) w
  | 0xA => .ok (.opANNN (fieldNNN w))
  | 0xB => .ok (.opBNNN (fieldNNN w))
  | 0xC => .ok (.opCXNN (fieldX w) (fieldNN w))
  | 0xD => .ok (.opDXYN (fieldX w) (fieldY w) (fieldN w))
  | 0xE => decodeFamilyE w
  | 0xF => decodeFamilyF w
  | _ => .error (.unknownOpcode w)

/-- The word two consecutive bytes make, the byte at the lower address in `w[15:8]` (R64, R91). -/
def wordOfBytes (b0 b1 : Byte) : Word := b0 ++ b1

/-- Decode from bytes as they lie in memory: the instruction and the bytes after it. -/
def decodeBytes : List Byte → Except Reject (Instr × List Byte)
  | b0 :: b1 :: rest =>
    match decode (wordOfBytes b0 b1) with
    | .ok i => .ok (i, rest)
    | .error r => .error r
  | _ => .error .truncated

/-! ### The encoder (R92) -/

/-- The four bits of a register number. -/
def regBits (x : Reg) : BitVec 4 := BitVec.ofFin x

/-- Format `NNN`. -/
def wordNNN (f : BitVec 4) (nnn : BitVec 12) : Word := f ++ nnn

/-- Format `XNN`. -/
def wordXNN (f : BitVec 4) (x : Reg) (nn : Byte) : Word := (f ++ regBits x) ++ nn

/-- Formats `XY` and `XYN`. -/
def wordXYN (f : BitVec 4) (x y : Reg) (n : BitVec 4) : Word :=
  (f ++ regBits x) ++ (regBits y ++ n)

/-- The word of an instruction (R92, R96). -/
def encode : Instr → Word
  | .op00E0 => 0x00E0
  | .op00EE => 0x00EE
  | .op1NNN nnn => wordNNN 0x1 nnn
  | .op2NNN nnn => wordNNN 0x2 nnn
  | .op3XNN x nn => wordXNN 0x3 x nn
  | .op4XNN x nn => wordXNN 0x4 x nn
  | .op5XY0 x y => wordXYN 0x5 x y 0x0
  | .op6XNN x nn => wordXNN 0x6 x nn
  | .op7XNN x nn => wordXNN 0x7 x nn
  | .op8XY0 x y => wordXYN 0x8 x y 0x0
  | .op8XY1 x y => wordXYN 0x8 x y 0x1
  | .op8XY2 x y => wordXYN 0x8 x y 0x2
  | .op8XY3 x y => wordXYN 0x8 x y 0x3
  | .op8XY4 x y => wordXYN 0x8 x y 0x4
  | .op8XY5 x y => wordXYN 0x8 x y 0x5
  | .op8XY6 x y => wordXYN 0x8 x y 0x6
  | .op8XY7 x y => wordXYN 0x8 x y 0x7
  | .op8XYE x y => wordXYN 0x8 x y 0xE
  | .op9XY0 x y => wordXYN 0x9 x y 0x0
  | .opANNN nnn => wordNNN 0xA nnn
  | .opBNNN nnn => wordNNN 0xB nnn
  | .opCXNN x nn => wordXNN 0xC x nn
  | .opDXYN x y n => wordXYN 0xD x y n
  | .opEX9E x => wordXNN 0xE x 0x9E
  | .opEXA1 x => wordXNN 0xE x 0xA1
  | .opFX07 x => wordXNN 0xF x 0x07
  | .opFX0A x => wordXNN 0xF x 0x0A
  | .opFX15 x => wordXNN 0xF x 0x15
  | .opFX18 x => wordXNN 0xF x 0x18
  | .opFX1E x => wordXNN 0xF x 0x1E
  | .opFX29 x => wordXNN 0xF x 0x29
  | .opFX33 x => wordXNN 0xF x 0x33
  | .opFX55 x => wordXNN 0xF x 0x55
  | .opFX65 x => wordXNN 0xF x 0x65

/-- The bytes of a word as memory holds them, high byte first (R101). -/
def bytesOfWord (w : Word) : List Byte := [w.extractLsb' 8 8, w.extractLsb' 0 8]

/-! ### The opcode table's numbering of bits -/

/-- The bytes in memory of an instruction whose bits are `w`: the table's bit 0 is the least
significant bit of the one 16-bit word, and bits from `nbits` up are 0. -/
def tableBytes (nbits w : Nat) : List Byte := bytesOfWord (BitVec.ofNat 16 (w % 2 ^ nbits))

/-- What the decoder reads from those bytes. -/
def decodeTableWord (nbits w : Nat) : Option Instr :=
  match decodeBytes (tableBytes nbits w) with
  | .ok (i, _) => some i
  | .error _ => none

end Sys2Proof
end

