-- ==== Sys2Proof/Config.lean ====
section
/-!
DEFINITION. What the spec leaves open and the model keeps free (spec/00_scope.md R7): constants with
no body, so that no proof can see a value of them. The font table, whose default value the spec
gives, stands in Sys2Proof/Machine/Memory.lean.
-/

namespace Sys2Proof

/-- The random byte of the `n`-th draw (R38 (c), R172, D16): a free value, "a fresh draw at each
execution". `State.free` counts the draws, so no two draws of one run share an argument.
DESIGN CHOICE, log 1. -/
opaque Config.randomByte : Nat → Byte

/-- The key FX0A would rather report, given the pressed keys in ascending order (R7 `KeyPick`, D14).
It is unconstrained here; `Machine.keyPick` turns it into a choice function, and every choice
function arises from some value of it. DESIGN CHOICE, log 2. -/
opaque Config.keyChoice : List Key → Key

end Sys2Proof
end

