-- ==== Sys2Proof/Machine/Memory.lean ====
section
/-!
DEFINITION. Main memory (spec/20_memory.md R60 to R63): the font table that reset writes, memory as a
list of cells in one canonical form, and reading and writing one byte of it.
-/

namespace Sys2Proof.Machine

/-- The font table `FONT[0..79]`, glyph `d` in bytes `5d .. 5d + 4` (R303), with the default bytes of
spec/93_implementation_defined.md G2. PRESUMED: the spec gives them from general knowledge
(D20, log 3). -/
def font : List Byte :=
  [0xF0, 0x90, 0x90, 0x90, 0xF0, 0x20, 0x60, 0x20, 0x20, 0x70, 0xF0, 0x10, 0xF0, 0x80, 0xF0] ++
  [0xF0, 0x10, 0xF0, 0x10, 0xF0, 0x90, 0x90, 0xF0, 0x10, 0x10, 0xF0, 0x80, 0xF0, 0x10, 0xF0] ++
  [0xF0, 0x80, 0xF0, 0x90, 0xF0, 0xF0, 0x10, 0x20, 0x40, 0x40, 0xF0, 0x90, 0xF0, 0x90, 0xF0] ++
  [0xF0, 0x90, 0xF0, 0x10, 0xF0, 0xF0, 0x90, 0xF0, 0x90, 0x90, 0xE0, 0x90, 0xE0, 0x90, 0xE0] ++
  [0xF0, 0x80, 0x80, 0x80, 0xF0, 0xE0, 0x90, 0x90, 0x90, 0xE0, 0xF0, 0x80, 0xF0, 0x80, 0xF0] ++
  [0xF0, 0x80, 0xF0, 0x80, 0x80]

/-- Main memory: the cells that differ from what reset with an empty ROM leaves. -/
abbrev Memory := List Host.Cell

/-- What an unlisted address reads as: the contents reset leaves with an empty ROM, the font table
at 0x000 to 0x04F and zero above it (R40, R61). -/
def Memory.initial (a : Nat) : Byte := font.getD a 0

/-- The canonical form from address `lo` up: addresses strictly rising, each below 4096, and no cell
equal to what its address would read as unlisted. -/
def Memory.wfFrom (lo : Nat) : Memory → Bool
  | [] => true
  | (a, b) :: m =>
    decide (lo ≤ a) && decide (a < 4096) && decide (b ≠ Memory.initial a) && Memory.wfFrom (a + 1) m

/-- The canonical form. -/
def Memory.wf (m : Memory) : Bool := Memory.wfFrom 0 m

/-- The byte at address `a` (R63). -/
def Memory.read : Memory → Nat → Byte
  | [], a => Memory.initial a
  | (b, v) :: m, a => if b = a then v else Memory.read m a

/-- Put a cell in front, unless it says what the unlisted address reads as. -/
def Memory.put (m : Memory) (a : Nat) (v : Byte) : Memory :=
  if v = Memory.initial a then m else (a, v) :: m

/-- Set the byte at address `a` (R63), keeping the canonical form. -/
def Memory.write : Memory → Nat → Byte → Memory
  | [], a, v => Memory.put [] a v
  | (b, w) :: m, a, v =>
    if a < b then Memory.put ((b, w) :: m) a v
    else if a = b then Memory.put m a v
    else (b, w) :: Memory.write m a v

/-- Set consecutive bytes from address `a` up, in ascending order. -/
def Memory.writeRange (m : Memory) (a : Nat) : List Byte → Memory
  | [] => m
  | b :: bs => Memory.writeRange (Memory.write m a b) (a + 1) bs

/-- The memory any list of cells stands for, in canonical form. -/
def Memory.canon (m : Memory) : Memory :=
  m.foldr (fun c acc => Memory.write acc (c.1 % 4096) c.2) []

end Sys2Proof.Machine
end

