-- ==== Sys2Proof/Machine/State.lean ====
section
/-!
DEFINITION. The state of the engine (spec/10_state.md R20 to R41), how a step may stop, and the state
after reset.
-/

namespace Sys2Proof.Machine

/-- What the last step returned (spec/40_cycle.md R129, spec/10_state.md R38 (e)): outputs of that step
that no instruction reads. The MODEL's own record of them, log 5. -/
inductive Report where
  /-- No step since reset: "no sound event and no step outcome" (R301). -/
  | idle
  /-- `OK(sound_event)`: an instruction completed and the tick ran; inside a step, before the tick, the
  execute stage reports `ok false`. -/
  | ok (soundEvent : Bool)
  /-- `KEY_WAIT`: FX0A found no key; nothing changed (R127). -/
  | keyWait
  /-- `UNKNOWN_OPCODE(w)`: the fetched word is no instruction; nothing changed (R126). -/
  | unknownOpcode (w : Word)
  deriving DecidableEq, Repr, Inhabited

/-- The faults of spec/60_exceptions.md R274: behaviour its source calls "undefined behavior inherited
from the original machine — not guarded", after which the state is unspecified (D6, log 8). -/
inductive Fault where
  /-- Raised by 2NNN with `sp = 16`. Safe: the model stops where the hardware does something unknown. -/
  | stackOverflow
  /-- Raised by 00EE with `sp = 0`. Safe: the model stops where the hardware does something unknown. -/
  | stackUnderflow
  deriving DecidableEq, Repr

/-- Why a step is given no meaning. -/
inductive Refusal where
  /-- Raised by `exec` for an instruction without a meaning; no arm does. Safe. -/
  | notModelled (mnemonic : String)
  /-- Raised by `step` when `ready = 0`: "a `step()` is refused: the model gives it no meaning" (R41,
  R242). Safe. -/
  | notReady
  deriving DecidableEq, Repr

/-- The framebuffer's 2048 one-bit cells, held as 32 rows of 64: row `y` from the top, and in it bit
`x` for column `x` from the left (R34, log 16). Cells are reached by `Screen.cell` and `Screen.flip`. -/
abbrev Screen := Vector (BitVec 64) 32

/-- All the state of the engine (R20 to R41). -/
structure State where
  /-- `V[0..15]` (R20); `V[15]` is VF, the only flag (R21, R23). -/
  v : Vector Byte 16
  /-- `I` (R26). -/
  index : Word
  /-- `pc` (R27). -/
  pc : Word
  /-- `stack[0..15]` (R29). -/
  stack : Vector Word 16
  /-- `sp`, the number of return addresses on the stack, 0 to 16 (R30). -/
  sp : Fin 17
  /-- `DT`, the delay timer (R32). -/
  dt : Byte
  /-- `ST`, the sound timer (R32). -/
  st : Byte
  /-- `fb[0..2047]` (R34). -/
  fb : Screen
  /-- `fb_changed` (R35). -/
  fbChanged : Bool
  /-- `key[0..15]` (R36). -/
  key : Vector Bool 16
  /-- `mem[0..4095]` (R37, R60). -/
  mem : Memory
  /-- `ready` (R41). -/
  ready : Bool
  /-- The MODEL's own: what the last step returned (R129, log 5). -/
  report : Report
  /-- The MODEL's own: how many free values have been taken (R38 (c), log 1). -/
  free : Nat
  deriving DecidableEq, Repr, Inhabited

/-- What a step, and each instruction, answers. -/
abbrev Result := Host.Outcome State Fault Refusal

/-- The state after a successful reset with an empty ROM (R40, R300, R305): the font table in memory,
zero elsewhere. A ROM is loaded by `Machine.resetRom` (log 10). -/
def State.reset : State where
  v := Vector.replicate 16 0
  index := 0
  pc := 0x0200
  stack := Vector.replicate 16 0
  sp := 0
  dt := 0
  st := 0
  fb := Vector.replicate 32 0
  fbChanged := true
  key := Vector.replicate 16 false
  mem := []
  ready := true
  report := .idle
  free := 0

/-- A state nothing is known of: the free value that stands for "every other piece of state has an
unspecified value" at power-on and after a failed reset (R41, R272, U3, U4, log 9). -/
opaque State.unspecified : Nat → State

end Sys2Proof.Machine
end

