-- ==== Sys2Proof/Machine/Ops.lean ====
section
/-!
DEFINITION. The named operations over registers, memory, screen, stack and pc that the meanings share,
and the stages of a step around execute (spec/40_cycle.md R120 to R130). The machine takes no exception
and returns from none (spec/60_exceptions.md R279, R280); what stands in the place of an exception entry
is `unknownWord`.
-/

namespace Sys2Proof.Machine

/-! ### General registers (R20) -/

/-- `V[x]`. -/
def State.getV (s : State) (x : Reg) : Byte := s.v[x]

/-- `V[x] <- b`. -/
def State.setV (s : State) (x : Reg) (b : Byte) : State := { s with v := s.v.set x.val b x.isLt }

/-! ### The memory port (R62, R63) -/

/-- The address on the memory port: `a[11:0]`, `a[15:12]` ignored (R62, D2, log 11). -/
def port (a : Word) : Nat := a.toNat % 4096

/-- `MemRead(a, 1)`. -/
def State.readByte (s : State) (a : Word) : Byte := Memory.read s.mem (port a)

/-- `MemWrite(a, 1, b)`. -/
def State.writeByte (s : State) (a : Word) (b : Byte) : State :=
  { s with mem := Memory.write s.mem (port a) b }

/-- Write bytes at `a`, `a + 1`, ... in ascending order, each address a 16-bit sum (R68, R181). -/
def State.writeBytes (s : State) (a : Word) : List Byte → State
  | [] => s
  | b :: bs => (s.writeByte a b).writeBytes (a + 1) bs

/-- Stage 1, fetch: two bytes at `pc` and `pc + 1`, big-endian; writes nothing (R64, R122). -/
def State.fetch (s : State) : Word := wordOfBytes (s.readByte s.pc) (s.readByte (s.pc + 1))

/-! ### The screen (R34, R200) -/

/-- The value of cell `c`. -/
def Screen.cell (f : Screen) (c : Fin 2048) : Bool :=
  (f[c.val / 64]'(by omega)).getLsbD (c.val % 64)

/-- XOR cell `c` with 1. -/
def Screen.flip (f : Screen) (c : Fin 2048) : Screen :=
  f.set (c.val / 64) (f[c.val / 64]'(by omega) ^^^ BitVec.twoPow 64 (c.val % 64)) (by omega)

/-! ### The call stack (R29, R30, D5, D29, log 24) -/

/-- `stack[sp] <- w; sp <- sp + 1`, or nothing to answer when `sp = 16`. -/
def State.push (s : State) (w : Word) : Option State :=
  if h : s.sp.val < 16 then
    some { s with stack := s.stack.set s.sp.val w h, sp := ⟨s.sp.val + 1, by omega⟩ }
  else none

/-- `sp <- sp - 1`, answering `stack[sp]`, which keeps its value (D29); nothing when `sp = 0`. -/
def State.pop (s : State) : Option (Word × State) :=
  if h : 0 < s.sp.val then
    some (s.stack[s.sp.val - 1]'(by omega), { s with sp := ⟨s.sp.val - 1, by omega⟩ })
  else none

/-! ### How the execute stage ends (R124, D3, D4, log 22) -/

/-- A completed execute "ends by writing the next value" of the pc (R27); the tick is still to come. -/
def State.finish (s : State) (target : Word) : State := { s with pc := target, report := .ok false }

/-- Sequential kind: `pc <- (pc + 2) mod 65536` (R124). -/
def State.sequential (s : State) : State := s.finish (s.pc + 2)

/-- Skip kind: `pc + 4` when the condition holds, else `pc + 2` (R124, R150). -/
def State.skipIf (s : State) (c : Bool) : State := s.finish (if c then s.pc + 4 else s.pc + 2)

/-- Key wait: "no write at all; no tick" (R127, R223), only the outcome `KEY_WAIT`. -/
def State.waitForKey (s : State) : State := { s with report := .keyWait }

/-! ### The other stages -/

/-- A decode that fails ends the step with `UNKNOWN_OPCODE(w)`: no state change, no tick, and the
engine stays ready (R126, R271, D8, log 4). -/
def unknownWord (w : Word) (s : State) : Result := .next { s with report := .unknownOpcode w }

/-- One count of a timer: "decremented by exactly 1 per cycle when non-zero, floor at 0" (R32). -/
def countDown (t : Byte) : Byte := if t = 0 then 0 else t - 1

/-- Stage 4, tick: both timers count down, and the sound event is raised exactly when ST goes from 1
to 0 (R128, R130). -/
def State.tick (s : State) : State :=
  { s with dt := countDown s.dt, st := countDown s.st, report := .ok (s.st == 1) }

/-- What follows the execute stage: the tick, unless the instruction ended in the key wait (R120). -/
def retire : Result → Result
  | .next t => .next (if t.report = .keyWait then t else t.tick)
  | .fault r => .fault r
  | .refused r => .refused r

end Sys2Proof.Machine
end

