-- ==== Sys2Proof/Machine/Flags.lean ====
section
/-!
DEFINITION. VF as the flag (spec/10_state.md R23, R24): the byte a flag is, the arbitration between a
result and the flag, and every flag's condition.
-/

namespace Sys2Proof.Machine

/-- VF, `V[15]` (R21). -/
def regF : Reg := 15

/-- A flag is the full byte 0x00 or 0x01 (R21, R23). -/
def flagByte (b : Bool) : Byte := if b then 1 else 0

/-- Write VF as a flag. -/
def State.setVF (s : State) (b : Bool) : State := s.setV regF (flagByte b)

/-- VF arbitration: the result goes to VX, then the flag to VF, so with X = 15 the flag wins
(R24, D9, C4, log 12). -/
def State.setFlagged (s : State) (x : Reg) (result : Byte) (flag : Bool) : State :=
  (s.setV x result).setVF flag

/-- 8XY4: the sum passes 255 (R167). -/
def carry (a b : Byte) : Bool := decide (255 < a.toNat + b.toNat)

/-- 8XY5: "VF = 0 if VY > original VX (borrow) else 1" (R168). -/
def noBorrow (a b : Byte) : Bool := !decide (a.toNat < b.toNat)

/-- 8XY7: "VF = 1 if VX(original) > VY else 0", as the document rules (R170, D30, C3, log 13). -/
def greater (a b : Byte) : Bool := decide (b.toNat < a.toNat)

/-- 8XY6: the bit shifted out at the bottom (R169). -/
def lowBit (a : Byte) : Bool := a.getLsbD 0

/-- 8XYE: the bit shifted out at the top (R171). -/
def highBit (a : Byte) : Bool := a.getLsbD 7

/-- FX1E: the new, 16-bit I is above 0x0FFF (R182, D10, log 15). -/
def aboveFFF (i : Word) : Bool := decide (0x0FFF < i.toNat)

end Sys2Proof.Machine
end

