-- ==== Sys2Proof/Machine/Alu.lean ====
section
/-!
DEFINITION. Load, arithmetic, logic, shift, random: 6XNN, 7XNN, 8XY0 to 8XY7, 8XYE, CXNN
(spec/43_alu.md R160 to R173). Every result is reduced modulo 256 and sources are read before any write.
-/

namespace Sys2Proof.Machine

/-- 6XNN, load immediate (R161). -/
def exec6XNN (x : Reg) (nn : Byte) (s : State) : Result := .next (s.setV x nn).sequential

/-- 7XNN, add immediate, no flag (R162). -/
def exec7XNN (x : Reg) (nn : Byte) (s : State) : Result :=
  .next (s.setV x (s.getV x + nn)).sequential

/-- 8XY0, move (R163). -/
def exec8XY0 (x y : Reg) (s : State) : Result := .next (s.setV x (s.getV y)).sequential

/-- 8XY1, OR, VF untouched (R164, D27, log 17). -/
def exec8XY1 (x y : Reg) (s : State) : Result :=
  .next (s.setV x (s.getV x ||| s.getV y)).sequential

/-- 8XY2, AND, VF untouched (R165, D27, log 17). -/
def exec8XY2 (x y : Reg) (s : State) : Result :=
  .next (s.setV x (s.getV x &&& s.getV y)).sequential

/-- 8XY3, XOR, VF untouched (R166, D27, log 17). -/
def exec8XY3 (x y : Reg) (s : State) : Result :=
  .next (s.setV x (s.getV x ^^^ s.getV y)).sequential

/-- 8XY4, add, VF = carry (R167). -/
def exec8XY4 (x y : Reg) (s : State) : Result :=
  let a := s.getV x
  let b := s.getV y
  .next (s.setFlagged x (a + b) (carry a b)).sequential

/-- 8XY5, subtract VY from VX, VF = no borrow (R168). -/
def exec8XY5 (x y : Reg) (s : State) : Result :=
  let a := s.getV x
  let b := s.getV y
  .next (s.setFlagged x (a - b) (noBorrow a b)).sequential

/-- 8XY6, shift VX right by one in place; the Y field is ignored (R169, R97, D27, log 17). -/
def exec8XY6 (x _y : Reg) (s : State) : Result :=
  let a := s.getV x
  .next (s.setFlagged x (a >>> 1) (lowBit a)).sequential

/-- 8XY7, VX = VY - VX, VF = (old VX > VY) (R170). -/
def exec8XY7 (x y : Reg) (s : State) : Result :=
  let a := s.getV x
  let b := s.getV y
  .next (s.setFlagged x (b - a) (greater a b)).sequential

/-- 8XYE, shift VX left by one in place; the Y field is ignored (R171, R97, D27, log 17). -/
def exec8XYE (x _y : Reg) (s : State) : Result :=
  let a := s.getV x
  .next (s.setFlagged x (a <<< 1) (highBit a)).sequential

/-- CXNN, a fresh random byte masked by NN (R172, D16, log 1). -/
def execCXNN (x : Reg) (nn : Byte) (s : State) : Result :=
  .next ({ s with free := s.free + 1 }.setV x (Config.randomByte s.free &&& nn)).sequential

end Sys2Proof.Machine
end

