-- ==== Sys2Proof/Machine/Operands.lean ====
section
/-!
DEFINITION. Operand forms (spec/30_encoding.md R93, spec/20_memory.md R68, spec/46_keys_timers.md R220,
R223): immediates widened to 16 bits, the register range of the block transfers, and the keys.
-/

namespace Sys2Proof.Machine

/-- `zext_16(NNN)` (R93). -/
def address (nnn : BitVec 12) : Word := nnn.setWidth 16

/-- `zext_16` of a byte (R143, R182, R183). -/
def widen (b : Byte) : Word := b.setWidth 16

/-- The first `n` of the numbers 0 to 15, ascending: registers V0.. and sprite rows 0... -/
def firstNumbers (n : Nat) : List (Fin 16) := (List.finRange 16).take n

/-- The address `(I + k) mod 65536` (R68, R181). -/
def State.indexed (s : State) (k : Fin 16) : Word := s.index + BitVec.ofNat 16 k.val

/-- Registers V0 to VX inclusive (R185, R186). -/
def regsUpTo (x : Reg) : List Reg := firstNumbers (x.val + 1)

/-- The key an 8-bit register value selects: its low four bits (R220, D13, log 14). -/
def keyOf (b : Byte) : Key := (b.extractLsb' 0 4).toFin

/-- The pressed keys in ascending order: the set `P` of R223. -/
def State.pressed (s : State) : List Key := (List.finRange 16).filter (fun k => s.key[k])

/-- `KeyPick` on the pressed keys `p :: ps`: some member of them, which one is left open
(R223, D14, log 2). -/
def keyPick (p : Key) (ps : List Key) : Key :=
  let c := Config.keyChoice (p :: ps)
  if c ∈ p :: ps then c else p

/-- The key number as the byte FX0A writes (R223). -/
def keyByte (k : Key) : Byte := BitVec.ofNat 8 k.val

end Sys2Proof.Machine
end

