-- ==== Sys2Proof/Machine/Display.lean ====
section
/-!
DEFINITION. The framebuffer instructions: 00E0, DXYN (spec/45_display.md R200 to R207).
-/

namespace Sys2Proof.Machine

/-- The column of a sprite pixel: plain addition inside the screen; once the sum reaches 64 the start
column counts as 0 (R203, D17, log 18). -/
def spriteColumn (vx : Byte) (col : Fin 8) : Fin 64 :=
  if h : 64 ≤ vx.toNat + col.val then ⟨col.val, by omega⟩ else ⟨vx.toNat + col.val, by omega⟩

/-- The row of a sprite pixel, likewise with 32 (R203, D17, log 18). -/
def spriteLine (vy : Byte) (row : Fin 16) : Fin 32 :=
  if h : 32 ≤ vy.toNat + row.val then ⟨row.val, by omega⟩ else ⟨vy.toNat + row.val, by omega⟩

/-- `SpriteCell(vx, vy, row, col)` (R203). -/
def spriteCell (vx vy : Byte) (row : Fin 16) (col : Fin 8) : Fin 2048 :=
  ⟨(spriteLine vy row).val * 64 + (spriteColumn vx col).val, by omega⟩

/-- The sprite bit at a row and a column: bit 7 of the row's byte is column 0 (R202, R204, D18, log 19). -/
def State.spriteBit (s : State) (row : Fin 16) (col : Fin 8) : Bool :=
  (s.readByte (s.indexed row)).getLsbD (7 - col.val)

/-- The cells that the set bits of one sprite row target, column 0 first. -/
def State.rowCells (s : State) (vx vy : Byte) (row : Fin 16) : List (Fin 2048) :=
  ((List.finRange 8).filter (s.spriteBit row)).map (spriteCell vx vy row)

/-- The cells that the set bits of an `n`-row sprite at I target, in drawing order (R202). -/
def State.spriteCells (s : State) (vx vy : Byte) (n : BitVec 4) : List (Fin 2048) :=
  (firstNumbers n.toNat).flatMap (s.rowCells vx vy)

/-- One set sprite bit on cell `c`: a collision if the cell holds 1, then XOR (R202, R205). -/
def plot (p : Screen × Bool) (c : Fin 2048) : Screen × Bool :=
  (Screen.flip p.1 c, p.2 || Screen.cell p.1 c)

/-- 00E0, clear the screen and mark it changed (R201). -/
def exec00E0 (s : State) : Result :=
  .next { s with fb := Vector.replicate 32 0, fbChanged := true }.sequential

/-- DXYN: VX, VY and I are read first, the flag starts at 0, each set sprite bit is plotted, VF becomes
the collision flag and the screen is marked changed (R202, D9, D19, log 12, log 25). -/
def execDXYN (x y : Reg) (n : BitVec 4) (s : State) : Result :=
  let drawn := (s.spriteCells (s.getV x) (s.getV y) n).foldl plot (s.fb, false)
  .next ({ s with fb := drawn.1, fbChanged := true }.setVF drawn.2).sequential

end Sys2Proof.Machine
end

