-- ==== Sys2Proof/Machine/Flow.lean ====
section
/-!
DEFINITION. Control transfer: 00EE, 1NNN, 2NNN, BNNN (spec/41_flow.md R140 to R143).
-/

namespace Sys2Proof.Machine

/-- 00EE, return: pop the call's own address, then add 2 (R140). -/
def exec00EE (s : State) : Result :=
  match s.pop with
  | some (w, t) => .next (t.finish (w + 2))
  | none => .fault .stackUnderflow

/-- 1NNN, jump (R141). -/
def exec1NNN (nnn : BitVec 12) (s : State) : Result := .next (s.finish (address nnn))

/-- 2NNN, call: push the address of this instruction, then jump (R142). -/
def exec2NNN (nnn : BitVec 12) (s : State) : Result :=
  match s.push s.pc with
  | some t => .next (t.finish (address nnn))
  | none => .fault .stackOverflow

/-- BNNN, jump with offset V0 (R143). -/
def execBNNN (nnn : BitVec 12) (s : State) : Result :=
  .next (s.finish (address nnn + widen (s.getV 0)))

end Sys2Proof.Machine
end

