-- ==== Sys2Proof/Machine/IndexMemory.lean ====
section
/-!
DEFINITION. The index register and memory transfers: ANNN, FX1E, FX29, FX33, FX55, FX65
(spec/44_index_memory.md R180 to R187).
-/

namespace Sys2Proof.Machine

/-- `I <- w`. -/
def State.setIndex (s : State) (w : Word) : State := { s with index := w }

/-- The decimal digits of a byte, hundreds first, one binary digit a byte (R184). -/
def decimalDigits (b : Byte) : List Byte :=
  [BitVec.ofNat 8 (b.toNat / 100), BitVec.ofNat 8 (b.toNat / 10 % 10), BitVec.ofNat 8 (b.toNat % 10)]

/-- ANNN, load index (R180). -/
def execANNN (nnn : BitVec 12) (s : State) : Result := .next (s.setIndex (address nnn)).sequential

/-- FX1E, add VX to I modulo 65536, VF = (new I > 0xFFF), written last (R182). -/
def execFX1E (x : Reg) (s : State) : Result :=
  let sum := s.index + widen (s.getV x)
  .next ((s.setIndex sum).setVF (aboveFFF sum)).sequential

/-- FX29, I = VX × 5, VX not masked (R183, D12, log 15). -/
def execFX29 (x : Reg) (s : State) : Result :=
  .next (s.setIndex (widen (s.getV x) * 5)).sequential

/-- FX33, store the decimal digits of VX at I, I + 1, I + 2 (R184). -/
def execFX33 (x : Reg) (s : State) : Result :=
  .next (s.writeBytes s.index (decimalDigits (s.getV x))).sequential

/-- FX55, store V0 to VX at I up, then I += X + 1 (R185). -/
def execFX55 (x : Reg) (s : State) : Result :=
  .next ((s.writeBytes s.index ((regsUpTo x).map s.getV)).setIndex
    (s.index + BitVec.ofNat 16 (x.val + 1))).sequential

/-- Load each listed register from the byte at I plus its number; I is read before any write. -/
def State.loadRegs (s : State) (rs : List Reg) : State :=
  rs.foldl (fun t k => t.setV k (s.readByte (s.indexed k))) s

/-- FX65, load V0 to VX from I up, then I += X + 1 (R186). -/
def execFX65 (x : Reg) (s : State) : Result :=
  .next ((s.loadRegs (regsUpTo x)).setIndex (s.index + BitVec.ofNat 16 (x.val + 1))).sequential

end Sys2Proof.Machine
end

