-- ==== Sys2Proof/Machine/KeysTimers.lean ====
section
/-!
DEFINITION. Keys and timers: EX9E, EXA1, FX0A, FX07, FX15, FX18 (spec/46_keys_timers.md R220 to R226).
The key state does not change during a step, so it is its own snapshot (R125).
-/

namespace Sys2Proof.Machine

/-- EX9E, skip if the key VX selects is pressed (R221). -/
def execEX9E (x : Reg) (s : State) : Result := .next (s.skipIf s.key[keyOf (s.getV x)])

/-- EXA1, skip if the key VX selects is not pressed (R222). -/
def execEXA1 (x : Reg) (s : State) : Result := .next (s.skipIf !s.key[keyOf (s.getV x)])

/-- FX07, VX = DT, read before this step's tick (R224). -/
def execFX07 (x : Reg) (s : State) : Result := .next (s.setV x s.dt).sequential

/-- FX0A, wait for a key: with none pressed nothing changes (R223, R127). -/
def execFX0A (x : Reg) (s : State) : Result :=
  match s.pressed with
  | [] => .next s.waitForKey
  | p :: ps => .next (s.setV x (keyByte (keyPick p ps))).sequential

/-- FX15, DT = VX; the tick of the same step counts it down (R225). -/
def execFX15 (x : Reg) (s : State) : Result := .next { s with dt := s.getV x }.sequential

/-- FX18, ST = VX; the tick of the same step counts it down (R226). -/
def execFX18 (x : Reg) (s : State) : Result := .next { s with st := s.getV x }.sequential

end Sys2Proof.Machine
end

