-- ==== Sys2Proof/Machine/Skip.lean ====
section
/-!
DEFINITION. Conditional skips on registers: 3XNN, 4XNN, 5XY0, 9XY0 (spec/42_skip.md R150 to R154).
-/

namespace Sys2Proof.Machine

/-- 3XNN, skip if VX = NN (R151). -/
def exec3XNN (x : Reg) (nn : Byte) (s : State) : Result := .next (s.skipIf (s.getV x == nn))

/-- 4XNN, skip if VX ≠ NN (R152). -/
def exec4XNN (x : Reg) (nn : Byte) (s : State) : Result := .next (s.skipIf (s.getV x != nn))

/-- 5XY0, skip if VX = VY (R153). -/
def exec5XY0 (x y : Reg) (s : State) : Result := .next (s.skipIf (s.getV x == s.getV y))

/-- 9XY0, skip if VX ≠ VY (R154). -/
def exec9XY0 (x y : Reg) (s : State) : Result := .next (s.skipIf (s.getV x != s.getV y))

end Sys2Proof.Machine
end

