-- ==== Sys2Proof/Machine/Step.lean ====
section
/-!
DEFINITION. One step of the engine (spec/40_cycle.md R120): admission, fetch, decode, execute, tick.
-/

namespace Sys2Proof.Machine

/-- "one fetch-decode-execute-and-tick cycle" (R120), admitted only when `ready = 1` (R242). -/
def step (s : State) : Host.Outcome State Fault Refusal :=
  if s.ready then
    match decode s.fetch with
    | .ok i => retire (exec i s)
    | .error _ => unknownWord s.fetch s
  else .refused .notReady

/-- `s` with the instruction whose bits the opcode table numbers as `w` stored at `pc` and `pc + 1`,
where the fetch reads (R64, R101). It stands for loading a program, log 10. -/
def State.withFetchWord (s : State) (nbits w : Nat) : State := s.writeBytes s.pc (tableBytes nbits w)

end Sys2Proof.Machine
end

