-- ==== Sys2Proof/Machine/Interface.lean ====
section
/-!
DEFINITION. The host's operations on the engine (spec/49_host_interface.md R240 to R247): everything the
outside can do to it, one at a time, between steps (R248, log 20).
-/

namespace Sys2Proof.Machine

/-! ### Reset with a ROM (R241, R300) -/

/-- The largest ROM, 4096 - 512 bytes (R6 `ROM_MAX`). -/
def romMax : Nat := 3584

/-- The state a failed reset, or power-on, leaves: `ready = 0` and nothing else known (R41, R272, R302,
log 9). -/
def State.lostAt (n : Nat) : State :=
  { State.unspecified n with
    mem := Memory.canon (State.unspecified n).mem, ready := false, report := .idle, free := n + 1 }

/-- The state before the first reset (R302). -/
def State.powerOn : State := State.lostAt 0

/-- What `reset(rom)` returns, with the state it leaves (R241). -/
inductive ResetOutcome where
  | success (s : State)
  /-- The ROM is longer than 3584 bytes (R272). -/
  | romTooLarge (s : State)
  deriving DecidableEq, Repr

/-- `reset(rom)`: the whole state is replaced, whatever it was (R300, R301); only the model's own count
of free values goes on (log 28). -/
def resetRom (rom : List Byte) (s : State) : ResetOutcome :=
  if rom.length ≤ romMax then
    .success { State.reset with mem := Memory.writeRange [] 0x200 rom, free := s.free }
  else .romTooLarge (State.lostAt s.free)

/-! ### The other operations -/

/-- `write_key(i, b)` (R244). -/
def State.writeKey (s : State) (i : Key) (b : Bool) : State :=
  { s with key := s.key.set i.val b i.isLt }

/-- `read_framebuffer()`: the 2048 cells in order, and the changed flag; it changes nothing (R245). -/
def State.readFramebuffer (s : State) : List Bool × Bool :=
  ((List.finRange 2048).map (Screen.cell s.fb), s.fbChanged)

/-- `ack_changed()` (R245). -/
def State.ackChanged (s : State) : State := { s with fbChanged := false }

/-- `poke_pc(v)` (R247), the host's recovery from an unknown word (R280). -/
def State.pokePc (s : State) (v : Word) : State := { s with pc := v }

/-- `poke_DT(v)` (R247). -/
def State.pokeDT (s : State) (v : Byte) : State := { s with dt := v }

/-- `poke_ST(v)` (R247). -/
def State.pokeST (s : State) (v : Byte) : State := { s with st := v }

/-- "sound active", the level the host derives from the observation port (R130, R246, D23,
log 27). -/
def State.soundActive (s : State) : Bool := s.st != 0

/-- An operation of R240 that can change the engine; `read_framebuffer` and `observe` change nothing. -/
inductive Move where
  | reset (rom : List Byte)
  | step
  | writeKey (i : Key) (b : Bool)
  | ackChanged
  | pokePc (v : Word)
  | pokeDT (v : Byte)
  | pokeST (v : Byte)
  deriving DecidableEq, Repr

/-- What one operation does. -/
def act (m : Move) (s : State) : Result :=
  match m with
  | .reset rom =>
    match resetRom rom s with
    | .success t => .next t
    | .romTooLarge t => .next t
  | .step => step s
  | .writeKey i b => .next (s.writeKey i b)
  | .ackChanged => .next s.ackChanged
  | .pokePc v => .next (s.pokePc v)
  | .pokeDT v => .next (s.pokeDT v)
  | .pokeST v => .next (s.pokeST v)

/-! ### Status numbers (R251, R273, D22, log 26) -/

/-- The `status` of a step: 0 `OK`, 1 `KEY_WAIT`, 2 `UNKNOWN_OPCODE`, 3 stack fault; none for a step
that was not admitted. -/
def stepStatus : Result → Option (BitVec 2)
  | .next t =>
    match t.report with
    | .idle => none
    | .ok _ => some 0
    | .keyWait => some 1
    | .unknownOpcode _ => some 2
  | .fault _ => some 3
  | .refused _ => none

/-- The result number of a reset: 0 success, 1 `RomTooLarge`. -/
def resetStatus : ResetOutcome → BitVec 2
  | .success _ => 0
  | .romTooLarge _ => 1

end Sys2Proof.Machine
end

