-- ==== Sys2Proof/Safety.lean ====
section
/-!
DEFINITION. What counts as a good state and a safe run, in the terms the statements use: the invariant of
memory's form, the spec's own state apart from the model's own fields, and what each instruction may write
(the "written by" column of spec/10_state.md section 1 and the access table of spec/20_memory.md R67).
-/

namespace Sys2Proof.Machine

/-- Memory is in its canonical form: addresses strictly rising and below 4096, no cell that says what an
unlisted address reads as. -/
abbrev State.Inv (s : State) : Prop := Memory.wf s.mem = true

/-- The spec's own state: the model's own `report` and `free` are put to one value, so that two states
with equal `arch` agree in every piece of state of spec/10_state.md section 1. -/
def State.arch (s : State) : State := { s with report := .idle, free := 0 }

/-- A step from `s` is safe when it does not end in a stack fault (R274: "a model treats the outcome as a
fault that no claim may pass through"). -/
def State.StepSafe (s : State) : Prop := ∀ f, step s ≠ .fault f

/-- The general registers an instruction names as a destination or writes as the flag (R20, R23). -/
def writtenRegs : Instr → List Reg
  | .op00E0 | .op00EE | .op1NNN _ | .op2NNN _ | .op3XNN _ _ | .op4XNN _ _ | .op5XY0 _ _
  | .op9XY0 _ _ | .opANNN _ | .opBNNN _ | .opEX9E _ | .opEXA1 _ | .opFX15 _ | .opFX18 _
  | .opFX29 _ | .opFX33 _ | .opFX55 _ => []
  | .op6XNN x _ | .op7XNN x _ | .op8XY0 x _ | .op8XY1 x _ | .op8XY2 x _ | .op8XY3 x _
  | .opCXNN x _ | .opFX07 x | .opFX0A x => [x]
  | .op8XY4 x _ | .op8XY5 x _ | .op8XY6 x _ | .op8XY7 x _ | .op8XYE x _ => [x, regF]
  | .opDXYN _ _ _ | .opFX1E _ => [regF]
  | .opFX65 x => regsUpTo x

/-- The general registers an instruction names as a source, BNNN's V0 among them (R20, R21). -/
def sourceRegs : Instr → List Reg
  | .op00E0 | .op00EE | .op1NNN _ | .op2NNN _ | .op6XNN _ _ | .opANNN _ | .opCXNN _ _
  | .opFX07 _ | .opFX0A _ | .opFX65 _ => []
  | .opBNNN _ => [0]
  | .op3XNN x _ | .op4XNN x _ | .op7XNN x _ | .op8XY6 x _ | .op8XYE x _ | .opEX9E x | .opEXA1 x
  | .opFX15 x | .opFX18 x | .opFX1E x | .opFX29 x | .opFX33 x => [x]
  | .op8XY0 _ y => [y]
  | .op5XY0 x y | .op9XY0 x y | .op8XY1 x y | .op8XY2 x y | .op8XY3 x y | .op8XY4 x y
  | .op8XY5 x y | .op8XY7 x y | .opDXYN x y _ => [x, y]
  | .opFX55 x => regsUpTo x

/-- The general registers an instruction writes with a value the spec leaves open, from the state it starts
in: CXNN's random byte (R172, D16) and, with several keys pressed, FX0A's key (R223, D14). Two runs need not
agree in them (log 1, log 2). -/
def openRegs (i : Instr) (s : State) : List Reg :=
  match i with
  | .opCXNN x _ => [x]
  | .opFX0A x => if s.pressed.length ≤ 1 then [] else [x]
  | .op00E0 | .op00EE | .op1NNN _ | .op2NNN _ | .op3XNN _ _ | .op4XNN _ _ | .op5XY0 _ _
  | .op6XNN _ _ | .op7XNN _ _ | .op8XY0 _ _ | .op8XY1 _ _ | .op8XY2 _ _ | .op8XY3 _ _
  | .op8XY4 _ _ | .op8XY5 _ _ | .op8XY6 _ _ | .op8XY7 _ _ | .op8XYE _ _ | .op9XY0 _ _
  | .opANNN _ | .opBNNN _ | .opDXYN _ _ _ | .opEX9E _ | .opEXA1 _ | .opFX07 _ | .opFX15 _
  | .opFX18 _ | .opFX1E _ | .opFX29 _ | .opFX33 _ | .opFX55 _ | .opFX65 _ => []

/-- The addresses an instruction stores a byte to, from the state it starts in (R67): FX33 at I, I + 1
and I + 2, FX55 at I + k for k = 0 to X; no other instruction stores. -/
def storedAddresses (i : Instr) (s : State) : List Word :=
  match i with
  | .opFX33 _ => [s.index, s.index + 1, s.index + 2]
  | .opFX55 x => (regsUpTo x).map s.indexed
  | .op00E0 | .op00EE | .op1NNN _ | .op2NNN _ | .op3XNN _ _ | .op4XNN _ _ | .op5XY0 _ _
  | .op6XNN _ _ | .op7XNN _ _ | .op8XY0 _ _ | .op8XY1 _ _ | .op8XY2 _ _ | .op8XY3 _ _
  | .op8XY4 _ _ | .op8XY5 _ _ | .op8XY6 _ _ | .op8XY7 _ _ | .op8XYE _ _ | .op9XY0 _ _
  | .opANNN _ | .opBNNN _ | .opCXNN _ _ | .opDXYN _ _ _ | .opEX9E _ | .opEXA1 _ | .opFX07 _
  | .opFX0A _ | .opFX15 _ | .opFX18 _ | .opFX1E _ | .opFX29 _ | .opFX65 _ => []

/-- Some set bit of the `n`-row sprite at I, drawn from column `vx` and row `vy`, targets cell `c`
(R202, R203). -/
def State.SpriteTargets (s : State) (vx vy : Byte) (n : BitVec 4) (c : Fin 2048) : Prop :=
  ∃ (row : Fin 16) (col : Fin 8),
    row.val < n.toNat ∧ s.spriteBit row col = true ∧ spriteCell vx vy row col = c

end Sys2Proof.Machine
end

