-- ==== Sys2Proof/Certificates/Slice0/Obligations.lean ====
section
/-!
DEFINITION. The statements for the provers, in the order of the spec's files: encoding, the step, what may
write what, control transfer and skips, arithmetic, index and memory, display, keys and timers, reset and
the host; last, the sprite's bits. A result statement gives the next state through `State.arch`, the spec's
own state, so it is also the instruction's frame. Each docstring names the rules it follows; "choice" marks a
clause that rests on a decision of the spec (D<n>) or of the model (log <n>) and not on the source's words.
-/

open Sys2Proof Sys2Proof.Machine

/-! ### Encoding (spec/30_encoding.md) -/

/-- Decoding an instruction's word gives the instruction back, for every instruction and every value of
every field (R91 to R97). -/
def Obligations.DecodeOfEncode : Prop := ∀ i : Instr, decode (encode i) = .ok i

/-- A word that decodes is the word of the instruction it decodes to: no bit is dropped (R91 to R97).
Choice: strictness (R95, D7, log 23), without which a word of family 0, 5 or 9 would not come back. -/
def Obligations.EncodeOfDecode : Prop :=
  ∀ (w : Word) (i : Instr), decode w = .ok i → encode i = w

/-- The decoder and the opcode map agree (R94: "every one of the 65536 words is either exactly one
instruction of rule R96 or unknown; no word matches two rows"). Choice: strictness (R95, D7, log 23). -/
def Obligations.DecodeFollowsOpcodeMap : Prop :=
  ∀ w : Word,
    match decode w with
    | .ok i =>
      i.rowIndex < opcodeMap.length ∧
        ∀ (k : Nat) (r : OpcodeRow), opcodeMap[k]? = some r → (r.accepts w = true ↔ k = i.rowIndex)
    | .error e => e = .unknownOpcode w ∧ ∀ r ∈ opcodeMap, r.accepts w = false

/-- Some words of the spec's decode vectors, one or two of each format and two unknown ones
(spec/95_test_vectors.md section 2.2). Choice: strictness (D7, log 23). -/
def Obligations.SpecWordsDecode : Prop :=
  decode 0x00E0 = .ok .op00E0 ∧ decode 0x00EE = .ok .op00EE ∧
  decode 0x1ABC = .ok (.op1NNN 0xABC) ∧ decode 0x3A7F = .ok (.op3XNN 0xA 0x7F) ∧
  decode 0x5CD0 = .ok (.op5XY0 0xC 0xD) ∧ decode 0x8ABE = .ok (.op8XYE 0xA 0xB) ∧
  decode 0xD125 = .ok (.opDXYN 0x1 0x2 0x5) ∧ decode 0xF655 = .ok (.opFX55 0x6) ∧
  decode 0x01E0 = .error (.unknownOpcode 0x01E0) ∧ decode 0x5CD1 = .error (.unknownOpcode 0x5CD1)

/-! ### The step (spec/40_cycle.md) -/

/-- The fetch is big-endian from `pc` and `pc + 1`, each address reduced modulo 4096 (R64, R122). Choice: the
reduction (D2, log 11). -/
def Obligations.FetchIsBigEndian : Prop :=
  ∀ s : State,
    s.fetch.toNat =
      (Memory.read s.mem (s.pc.toNat % 4096)).toNat * 256 +
        (Memory.read s.mem ((s.pc.toNat + 1) % 4096)).toNat

/-- A ready step whose fetched word decodes is `exec` of the decoded instruction; a completed execute is
followed by the tick, a key wait is not, a fault or refusal ends the step (R120). Choice: no tick on a key
wait (D15, log 6), which `report` tells (log 5), and `ready` (D21, log 9). -/
def Obligations.StepRunsDecodedInstruction : Prop :=
  ∀ (s : State) (i : Instr), s.ready = true → decode s.fetch = .ok i →
    step s =
      match exec i s with
      | .next t => .next (if t.report = .keyWait then t else t.tick)
      | .fault f => .fault f
      | .refused r => .refused r

/-- Every instruction but FX0A with no key pressed is followed by one tick: from the state `t` the execute
stage left, each timer has counted down by one with floor 0, the sound event is raised exactly when ST was 1,
and nothing else has changed (R120, R128, R130). Choice: that the outcome stands in `report` (log 5). -/
def Obligations.CompletedStepTicksOnce : Prop :=
  ∀ (s t : State) (i : Instr), s.ready = true → decode s.fetch = .ok i → exec i s = .next t →
    (∀ x, i = .opFX0A x → ∃ k : Key, s.key[k] = true) →
    ∃ u, step s = .next u ∧ u.dt.toNat = t.dt.toNat - 1 ∧ u.st.toNat = t.st.toNat - 1 ∧
      (t.st = 1 → u.report = .ok true) ∧ (t.st ≠ 1 → u.report = .ok false) ∧
      u = { t with dt := u.dt, st := u.st, report := u.report }

/-- A ready step on an unknown word changes nothing of the spec's state, reports the word, and stepping
again does the same (R126, R271). Choice: no tick (D8), outcome as a next state (log 4, log 5). -/
def Obligations.UnknownWordChangesNothing : Prop :=
  ∀ s : State, s.ready = true → (∀ i, decode s.fetch ≠ .ok i) →
    ∃ t, step s = .next t ∧ t.report = .unknownOpcode s.fetch ∧ t.arch = s.arch ∧ step t = .next t

/-- A step is refused exactly when the engine is not ready (R242). Choice: the `ready` bit (D21, log 9). -/
def Obligations.StepRefusedExactlyWhenNotReady : Prop :=
  ∀ s : State, (step s = .refused .notReady ↔ s.ready = false) ∧
    ∀ r, step s = .refused r → r = .notReady

/-- The only faults are a call with 16 return addresses and a return with none (R275: "Nothing else raises
anything"). Choice: those two are faults (D6, log 8); `ready` (D21, log 9). -/
def Obligations.OnlyStackFaults : Prop :=
  ∀ s : State,
    (step s = .fault .stackOverflow ↔
      s.ready = true ∧ s.sp = 16 ∧ ∃ nnn, decode s.fetch = .ok (.op2NNN nnn)) ∧
    (step s = .fault .stackUnderflow ↔
      s.ready = true ∧ s.sp = 0 ∧ decode s.fetch = .ok .op00EE)

/-- A ready step ends in one outcome: a next state with a report of OK, KEY_WAIT or UNKNOWN_OPCODE, or a
stack fault (R129). Choice: how outcomes are told apart (D22, log 4, log 5, log 26); `ready` (D21,
log 9). -/
def Obligations.ReadyStepHasAnOutcome : Prop :=
  ∀ s : State, s.ready = true →
    (∃ t, step s = .next t ∧ t.report ≠ .idle ∧ t.ready = true) ∨ ∃ f, step s = .fault f

/-- The `pc` after execute, for every instruction (R124: 23 sequential, 6 skips, 4 transfers, 1 key wait;
"All `pc` arithmetic is modulo 65536"), with the skips' conditions (R151 to R154, R221, R222). Choice: the key
VX selects (D13, log 14), 16-bit pc (D3, log 22), the stack pointer's convention (D5, log 24). -/
def Obligations.PcAfterExecute : Prop :=
  ∀ (i : Instr) (s t : State), exec i s = .next t →
    match i with
    | .op00E0 | .op6XNN _ _ | .op7XNN _ _ | .op8XY0 _ _ | .op8XY1 _ _ | .op8XY2 _ _ | .op8XY3 _ _
    | .op8XY4 _ _ | .op8XY5 _ _ | .op8XY6 _ _ | .op8XY7 _ _ | .op8XYE _ _ | .opANNN _
    | .opCXNN _ _ | .opDXYN _ _ _ | .opFX07 _ | .opFX15 _ | .opFX18 _ | .opFX1E _ | .opFX29 _
    | .opFX33 _ | .opFX55 _ | .opFX65 _ => t.pc.toNat = (s.pc.toNat + 2) % 65536
    | .op3XNN x nn => t.pc.toNat = (s.pc.toNat + if s.getV x = nn then 4 else 2) % 65536
    | .op4XNN x nn => t.pc.toNat = (s.pc.toNat + if s.getV x ≠ nn then 4 else 2) % 65536
    | .op5XY0 x y => t.pc.toNat = (s.pc.toNat + if s.getV x = s.getV y then 4 else 2) % 65536
    | .op9XY0 x y => t.pc.toNat = (s.pc.toNat + if s.getV x ≠ s.getV y then 4 else 2) % 65536
    | .opEX9E x =>
      t.pc.toNat = (s.pc.toNat + if s.key[keyOf (s.getV x)] = true then 4 else 2) % 65536
    | .opEXA1 x =>
      t.pc.toNat = (s.pc.toNat + if s.key[keyOf (s.getV x)] = false then 4 else 2) % 65536
    | .op1NNN nnn | .op2NNN nnn => t.pc.toNat = nnn.toNat
    | .opBNNN nnn => t.pc.toNat = (nnn.toNat + (s.getV 0).toNat) % 65536
    | .op00EE => ∃ k : Fin 16, k.val + 1 = s.sp.val ∧ t.pc.toNat = (s.stack[k].toNat + 2) % 65536
    | .opFX0A _ =>
      ((∃ k : Key, s.key[k] = true) → t.pc.toNat = (s.pc.toNat + 2) % 65536) ∧
        ((∀ k : Key, s.key[k] = false) → t.pc = s.pc)

/-! ### What may write what (spec/10_state.md section 1, spec/20_memory.md R67): the frames -/

/-- No instruction writes a general register but those it names as destination and, for the seven flag
instructions, VF (R20, R23). -/
def Obligations.RegistersWrittenAsNamed : Prop :=
  ∀ (i : Instr) (s t : State), exec i s = .next t → ∀ r, r ∉ writtenRegs i → t.getV r = s.getV r

/-- The seven flag instructions leave VF 0x00 or 0x01, whatever register the result went to (R23: "Each of
them writes the full byte 0x00 or 0x01 at every execution, whatever the operands"). Choice: order (D9,
log 12). -/
def Obligations.FlagInstructionsLeaveABit : Prop :=
  ∀ (i : Instr) (s t : State), exec i s = .next t →
    match i with
    | .op8XY4 _ _ | .op8XY5 _ _ | .op8XY6 _ _ | .op8XY7 _ _ | .op8XYE _ _ | .opDXYN _ _ _
    | .opFX1E _ => t.getV regF = 0 ∨ t.getV regF = 1
    | _ => True

/-- No instruction reads VF implicitly (R23): if it does not name VF as a source, running it from the state
with any other VF ends alike, in states that agree in everything but VF, which holds the flag or result
where the instruction writes VF and else that other value. Registers whose value is open (`openRegs`) are
left out: two draws, or two choices of a key, have no relation (R38, D14, D16, log 1, log 2). Choice: the
shifts ignore Y (D27, log 17); a key wait is told by `report` (log 5). -/
def Obligations.VFIsNeverReadImplicitly : Prop :=
  ∀ (i : Instr) (s : State) (b : Byte), regF ∉ sourceRegs i →
    match exec i s, exec i (s.setV regF b) with
    | .next t, .next u =>
      u = { t with v := u.v } ∧
        (∀ r, r ≠ regF → r ∉ openRegs i s → u.getV r = t.getV r) ∧
        (regF ∈ writtenRegs i ∧ t.report ≠ .keyWait → regF ∉ openRegs i s →
          u.getV regF = t.getV regF) ∧
        (¬(regF ∈ writtenRegs i ∧ t.report ≠ .keyWait) → u.getV regF = b)
    | .fault f, .fault g => f = g
    | _, _ => False

/-- Memory is written by FX33 and FX55 only, and by them only at the addresses they store to: every byte
whose address no stored address reduces to reads as before (R67). Choice: the reduction (D2, log 11). -/
def Obligations.MemoryWrittenByStoresOnly : Prop :=
  ∀ (i : Instr) (s t : State), exec i s = .next t →
    ∀ a : Word, (∀ p ∈ storedAddresses i s, port p ≠ port a) → t.readByte a = s.readByte a

/-- In the execute stage `I` is written by ANNN, FX1E, FX29, FX55 and FX65 only, DT by FX15 only and ST by
FX18 only (R26, R32). -/
def Obligations.IndexAndTimersWrittenAsNamed : Prop :=
  ∀ (i : Instr) (s t : State), exec i s = .next t →
    match i with
    | .opANNN _ | .opFX1E _ | .opFX29 _ | .opFX55 _ | .opFX65 _ => t.dt = s.dt ∧ t.st = s.st
    | .opFX15 _ => t.index = s.index ∧ t.st = s.st
    | .opFX18 _ => t.index = s.index ∧ t.dt = s.dt
    | _ => t.index = s.index ∧ t.dt = s.dt ∧ t.st = s.st

/-- The call stack and its pointer are written by 2NNN and 00EE only; 2NNN writes the one entry at the old
`sp`, 00EE writes no entry (R29, R30). Choice: a pop leaves its entry (D29), the pointer is a count (D5,
log 24). -/
def Obligations.StackWrittenByCallAndReturnOnly : Prop :=
  ∀ (i : Instr) (s t : State), exec i s = .next t →
    match i with
    | .op2NNN _ => t.sp.val = s.sp.val + 1 ∧ ∀ k : Fin 16, k.val ≠ s.sp.val → t.stack[k] = s.stack[k]
    | .op00EE => t.sp.val + 1 = s.sp.val ∧ t.stack = s.stack
    | _ => t.sp = s.sp ∧ t.stack = s.stack

/-- Over a whole step: the framebuffer changes only when the fetched instruction is 00E0 or DXYN, which set
the changed flag; no step clears the flag (R34, R35). Choice: DXYN always sets it (D19, log 25). -/
def Obligations.ScreenWrittenByDisplayOnly : Prop :=
  ∀ s t : State, step s = .next t →
    match decode s.fetch with
    | .ok .op00E0 | .ok (.opDXYN _ _ _) => t.fbChanged = true
    | _ => t.fb = s.fb ∧ t.fbChanged = s.fbChanged

/-- No step writes the key state (R36: "No instruction writes it") or takes the engine out of `ready`.
Choice: the `ready` bit (D21, log 9). -/
def Obligations.StepsNeverWriteKeys : Prop :=
  ∀ s t : State, step s = .next t → t.key = s.key ∧ t.ready = true

/-- Every step keeps memory in its canonical form: addresses strictly rising and below 4096, no cell that
says what an unlisted address reads as (R60, R62; log 7). -/
def Obligations.StepKeepsCanonicalMemory : Prop :=
  ∀ s t : State, s.Inv → step s = .next t → t.Inv

/-- The state after reset has memory in canonical form. -/
def Obligations.ResetMemoryIsCanonical : Prop := State.reset.Inv

/-! ### Control transfer and skips (spec/41_flow.md, spec/42_skip.md) -/

/-- 1NNN: "pc = NNN (unconditional jump)", nothing else (R141). -/
def Obligations.JumpGoesToNNN : Prop :=
  ∀ (nnn : BitVec 12) (s : State),
    ∃ t, exec (.op1NNN nnn) s = .next t ∧ t.pc.toNat = nnn.toNat ∧
      t.arch = ({ s with pc := t.pc } : State).arch

/-- BNNN: "pc = NNN + V0", never masked to 12 bits, nothing else (R143). Choice: 16-bit pc (D3,
log 22). -/
def Obligations.JumpOffsetAddsV0 : Prop :=
  ∀ (nnn : BitVec 12) (s : State),
    ∃ t, exec (.opBNNN nnn) s = .next t ∧ t.pc.toNat = nnn.toNat + (s.getV 0).toNat ∧
      t.arch = ({ s with pc := t.pc } : State).arch

/-- 2NNN with fewer than 16 return addresses pushes its own address and jumps (R142). Choice: the pointer's
convention (D5, log 24). -/
def Obligations.CallPushesItsOwnAddress : Prop :=
  ∀ (nnn : BitVec 12) (s : State) (k : Fin 16), s.sp.val = k.val →
    ∃ t, exec (.op2NNN nnn) s = .next t ∧ t.stack[k] = s.pc ∧ t.sp.val = k.val + 1 ∧
      t.pc.toNat = nnn.toNat ∧ (∀ j : Fin 16, j ≠ k → t.stack[j] = s.stack[j]) ∧
      t.arch = ({ s with pc := t.pc, sp := t.sp, stack := t.stack } : State).arch

/-- 00EE with a return address on the stack pops it and goes 2 past it, modulo 65536; the entry stays
(R140). Choice: the pointer's convention (D5), the entry kept (D29, log 24), 16-bit pc (D3, log 22). -/
def Obligations.ReturnGoesTwoPastTheCall : Prop :=
  ∀ (s : State) (k : Fin 16), s.sp.val = k.val + 1 →
    ∃ t, exec .op00EE s = .next t ∧ t.pc = s.stack[k] + 2 ∧ t.sp.val = k.val ∧
      t.arch = ({ s with pc := t.pc, sp := t.sp } : State).arch

/-- A return from any state whose stack is as a call left it resumes after the call, with the stack pointer
as it was before the call (R140, R142). Choice: the pointer's convention (D5, log 24). -/
def Obligations.ReturnUndoesCall : Prop :=
  ∀ (nnn : BitVec 12) (s t u : State), exec (.op2NNN nnn) s = .next t → u.stack = t.stack →
    u.sp = t.sp → ∃ w, exec .op00EE u = .next w ∧ w.pc = s.pc + 2 ∧ w.sp = s.sp

/-- A call with 16 return addresses and a return with none fault (R31, R274). Choice: D6, log 8. -/
def Obligations.CallAndReturnFaultAtTheBounds : Prop :=
  (∀ (nnn : BitVec 12) (s : State), s.sp = 16 → exec (.op2NNN nnn) s = .fault .stackOverflow) ∧
  ∀ s : State, s.sp = 0 → exec .op00EE s = .fault .stackUnderflow

/-- 3XNN, 4XNN, 5XY0, 9XY0: pc + 4 when the condition holds, else pc + 2, modulo 65536, and "A skip writes
nothing but `pc`" (R150 to R154). -/
def Obligations.RegisterSkips : Prop :=
  ∀ (x y : Reg) (nn : Byte) (s : State),
    (∃ t, exec (.op3XNN x nn) s = .next t ∧
      t.pc.toNat = (s.pc.toNat + if s.getV x = nn then 4 else 2) % 65536 ∧
      t.arch = ({ s with pc := t.pc } : State).arch) ∧
    (∃ t, exec (.op4XNN x nn) s = .next t ∧
      t.pc.toNat = (s.pc.toNat + if s.getV x = nn then 2 else 4) % 65536 ∧
      t.arch = ({ s with pc := t.pc } : State).arch) ∧
    (∃ t, exec (.op5XY0 x y) s = .next t ∧
      t.pc.toNat = (s.pc.toNat + if s.getV x = s.getV y then 4 else 2) % 65536 ∧
      t.arch = ({ s with pc := t.pc } : State).arch) ∧
    (∃ t, exec (.op9XY0 x y) s = .next t ∧
      t.pc.toNat = (s.pc.toNat + if s.getV x = s.getV y then 2 else 4) % 65536 ∧
      t.arch = ({ s with pc := t.pc } : State).arch)

/-! ### Arithmetic (spec/43_alu.md) -/

/-- 6XNN and 8XY0 put NN, or VY, into VX, whichever register X is, and nothing else (R161, R163). -/
def Obligations.LoadAndMove : Prop :=
  ∀ (x y : Reg) (nn : Byte) (s : State),
    (∃ t, exec (.op6XNN x nn) s = .next t ∧ t.getV x = nn ∧ (∀ r, r ≠ x → t.getV r = s.getV r) ∧
      t.arch = ({ s with v := t.v, pc := s.pc + 2 } : State).arch) ∧
    (∃ t, exec (.op8XY0 x y) s = .next t ∧ t.getV x = s.getV y ∧
      (∀ r, r ≠ x → t.getV r = s.getV r) ∧
      t.arch = ({ s with v := t.v, pc := s.pc + 2 } : State).arch)

/-- 7XNN: "VX after = (VX before + NN) mod 256", no flag, nothing else (R162). -/
def Obligations.AddImmediateWraps : Prop :=
  ∀ (x : Reg) (nn : Byte) (s : State),
    ∃ t, exec (.op7XNN x nn) s = .next t ∧
      (t.getV x).toNat = ((s.getV x).toNat + nn.toNat) % 256 ∧ (∀ r, r ≠ x → t.getV r = s.getV r) ∧
      t.arch = ({ s with v := t.v, pc := s.pc + 2 } : State).arch

/-- 8XY1, 8XY2, 8XY3: each bit of VX becomes the OR, AND, XOR of the bits of VX and VY; VF is untouched
unless X = 15 (R164 to R166). Choice: VF untouched (D27, log 17). -/
def Obligations.LogicIsBitwise : Prop :=
  ∀ (x y : Reg) (s : State),
    (∃ t, exec (.op8XY1 x y) s = .next t ∧
      (∀ k, (t.getV x).getLsbD k = ((s.getV x).getLsbD k || (s.getV y).getLsbD k)) ∧
      (∀ r, r ≠ x → t.getV r = s.getV r) ∧
      t.arch = ({ s with v := t.v, pc := s.pc + 2 } : State).arch) ∧
    (∃ t, exec (.op8XY2 x y) s = .next t ∧
      (∀ k, (t.getV x).getLsbD k = ((s.getV x).getLsbD k && (s.getV y).getLsbD k)) ∧
      (∀ r, r ≠ x → t.getV r = s.getV r) ∧
      t.arch = ({ s with v := t.v, pc := s.pc + 2 } : State).arch) ∧
    (∃ t, exec (.op8XY3 x y) s = .next t ∧
      (∀ k, (t.getV x).getLsbD k = ((s.getV x).getLsbD k ^^ (s.getV y).getLsbD k)) ∧
      (∀ r, r ≠ x → t.getV r = s.getV r) ∧
      t.arch = ({ s with v := t.v, pc := s.pc + 2 } : State).arch)

/-- 8XY4: VX = (VX + VY) mod 256 and "VF == 1 iff VX_before + VY_before > 255", VF written last, so X = 15
leaves VF = the carry (R167). Choice: order (D9, log 12). -/
def Obligations.AddSetsCarry : Prop :=
  ∀ (x y : Reg) (s : State),
    ∃ t, exec (.op8XY4 x y) s = .next t ∧
      (x ≠ regF → (t.getV x).toNat = ((s.getV x).toNat + (s.getV y).toNat) % 256) ∧
      (t.getV regF).toNat = (if (s.getV x).toNat + (s.getV y).toNat > 255 then 1 else 0) ∧
      (∀ r, r ≠ x → r ≠ regF → t.getV r = s.getV r) ∧
      t.arch = ({ s with v := t.v, pc := s.pc + 2 } : State).arch

/-- 8XY5: VX = (VX - VY) mod 256 and "VF == 0 iff VY_before > VX_before (VF==1 otherwise)", VF written
last, so X = 15 leaves VF = the flag (R168). Choice: order (D9, log 12). -/
def Obligations.SubtractSetsNoBorrow : Prop :=
  ∀ (x y : Reg) (s : State),
    ∃ t, exec (.op8XY5 x y) s = .next t ∧
      (x ≠ regF → (t.getV x).toNat = ((s.getV x).toNat + 256 - (s.getV y).toNat) % 256) ∧
      (t.getV regF).toNat = (if (s.getV y).toNat > (s.getV x).toNat then 0 else 1) ∧
      (∀ r, r ≠ x → r ≠ regF → t.getV r = s.getV r) ∧
      t.arch = ({ s with v := t.v, pc := s.pc + 2 } : State).arch

/-- 8XY7: VX = (VY - VX) mod 256 and VF = 1 exactly when the old VX is greater than VY, VF written last
(R170). Choice: the polarity (D30, log 13), order (D9, log 12). -/
def Obligations.ReverseSubtractSetsGreater : Prop :=
  ∀ (x y : Reg) (s : State),
    ∃ t, exec (.op8XY7 x y) s = .next t ∧
      (x ≠ regF → (t.getV x).toNat = ((s.getV y).toNat + 256 - (s.getV x).toNat) % 256) ∧
      (t.getV regF).toNat = (if (s.getV x).toNat > (s.getV y).toNat then 1 else 0) ∧
      (∀ r, r ≠ x → r ≠ regF → t.getV r = s.getV r) ∧
      t.arch = ({ s with v := t.v, pc := s.pc + 2 } : State).arch

/-- 8XY6 halves and 8XYE doubles VX in place, VF receives the bit shifted out, written last, and Y is
ignored (R169, R171). Choice: order (D9, C4, log 12), Y ignored (D27, log 17). -/
def Obligations.ShiftsMoveVXByOne : Prop :=
  ∀ (x y : Reg) (s : State),
    (∃ t, exec (.op8XY6 x y) s = .next t ∧ (x ≠ regF → (t.getV x).toNat = (s.getV x).toNat / 2) ∧
      (t.getV regF).toNat = (s.getV x).toNat % 2 ∧
      (∀ r, r ≠ x → r ≠ regF → t.getV r = s.getV r) ∧
      t.arch = ({ s with v := t.v, pc := s.pc + 2 } : State).arch) ∧
    (∃ t, exec (.op8XYE x y) s = .next t ∧
      (x ≠ regF → (t.getV x).toNat = (s.getV x).toNat * 2 % 256) ∧
      (t.getV regF).toNat = (s.getV x).toNat / 128 ∧
      (∀ r, r ≠ x → r ≠ regF → t.getV r = s.getV r) ∧
      t.arch = ({ s with v := t.v, pc := s.pc + 2 } : State).arch)

/-- CXNN: VX becomes the free byte of this draw AND NN, so no bit outside NN is set in it; one free value is
taken (R172). It holds for every value of the byte, and is read for one run: it relates no two draws. Choice:
a free draw (D16, log 1). -/
def Obligations.RandomByteIsMasked : Prop :=
  ∀ (x : Reg) (nn : Byte) (s : State),
    ∃ t, exec (.opCXNN x nn) s = .next t ∧ t.getV x = Config.randomByte s.free &&& nn ∧
      t.getV x &&& ~~~nn = 0 ∧
      (∀ r, r ≠ x → t.getV r = s.getV r) ∧ t.free = s.free + 1 ∧
      t.arch = ({ s with v := t.v, pc := s.pc + 2 } : State).arch

/-! ### Index register and memory (spec/44_index_memory.md) -/

/-- ANNN: "I = NNN", nothing else (R180). -/
def Obligations.LoadIndexImmediate : Prop :=
  ∀ (nnn : BitVec 12) (s : State),
    ∃ t, exec (.opANNN nnn) s = .next t ∧ t.index.toNat = nnn.toNat ∧
      t.arch = ({ s with index := t.index, pc := s.pc + 2 } : State).arch

/-- FX29: I = VX * 5 for every VX, nothing else (R183). Choice: VX is not masked (D12, log 15). -/
def Obligations.GlyphAddressIsFiveTimes : Prop :=
  ∀ (x : Reg) (s : State),
    ∃ t, exec (.opFX29 x) s = .next t ∧ t.index.toNat = (s.getV x).toNat * 5 ∧
      t.arch = ({ s with index := t.index, pc := s.pc + 2 } : State).arch

/-- FX1E: I = (I + VX) mod 65536, then VF = 1 exactly when the new I is above 0xFFF; X = 15 adds the old VF
(R182). Choice: order (D9, log 12), flag from the wrapped I (D10, D11, log 15). -/
def Obligations.AddToIndexFlagsAboveFFF : Prop :=
  ∀ (x : Reg) (s : State),
    ∃ t, exec (.opFX1E x) s = .next t ∧
      t.index.toNat = (s.index.toNat + (s.getV x).toNat) % 65536 ∧
      (t.getV regF).toNat =
        (if (s.index.toNat + (s.getV x).toNat) % 65536 > 0xFFF then 1 else 0) ∧
      (∀ r, r ≠ regF → t.getV r = s.getV r) ∧
      t.arch = ({ s with index := t.index, v := t.v, pc := s.pc + 2 } : State).arch

/-- FX33: the hundreds, tens and ones digit of VX at I, I + 1, I + 2, no other byte, nothing else (R184).
Choice: addresses reduced modulo 4096 (D2, log 11). -/
def Obligations.StoreDecimalDigits : Prop :=
  ∀ (x : Reg) (s : State), s.Inv →
    ∃ t, exec (.opFX33 x) s = .next t ∧
      (t.readByte s.index).toNat = (s.getV x).toNat / 100 ∧
      (t.readByte (s.index + 1)).toNat = (s.getV x).toNat / 10 % 10 ∧
      (t.readByte (s.index + 2)).toNat = (s.getV x).toNat % 10 ∧
      (∀ a : Word, port a ≠ port s.index → port a ≠ port (s.index + 1) →
        port a ≠ port (s.index + 2) → t.readByte a = s.readByte a) ∧
      t.arch = ({ s with mem := t.mem, pc := s.pc + 2 } : State).arch

/-- FX55: V0 to VX at I to I + X, no other byte, then I = (I + X + 1) mod 65536, nothing else (R185).
Choice: widths (D11, log 15), addresses reduced modulo 4096 (D2, log 11). -/
def Obligations.StoreRegisters : Prop :=
  ∀ (x : Reg) (s : State), s.Inv →
    ∃ t, exec (.opFX55 x) s = .next t ∧
      (∀ r : Reg, r ≤ x → t.readByte (s.indexed r) = s.getV r) ∧
      (∀ a : Word, (∀ r : Reg, r ≤ x → port (s.indexed r) ≠ port a) →
        t.readByte a = s.readByte a) ∧
      t.index.toNat = (s.index.toNat + x.val + 1) % 65536 ∧
      t.arch = ({ s with mem := t.mem, index := t.index, pc := s.pc + 2 } : State).arch

/-- FX65: V0 to VX from I to I + X, registers above VX untouched, then I = (I + X + 1) mod 65536, nothing
else (R186). Choice: widths (D11, log 15), addresses reduced modulo 4096 (D2, log 11). -/
def Obligations.LoadRegisters : Prop :=
  ∀ (x : Reg) (s : State),
    ∃ t, exec (.opFX65 x) s = .next t ∧
      (∀ r : Reg, r ≤ x → t.getV r = s.readByte (s.indexed r)) ∧
      (∀ r : Reg, ¬r ≤ x → t.getV r = s.getV r) ∧
      t.index.toNat = (s.index.toNat + x.val + 1) % 65536 ∧
      t.arch = ({ s with v := t.v, index := t.index, pc := s.pc + 2 } : State).arch

/-- What FX55 stored, FX65 with the same X loads back once I is where it was (R185, R186, R318).
Choice: widths (D11, log 15), addresses reduced modulo 4096 (D2, log 11). -/
def Obligations.StoreThenLoadRestores : Prop :=
  ∀ (x : Reg) (s t u : State), s.Inv → exec (.opFX55 x) s = .next t → u.mem = t.mem →
    u.index = s.index → ∃ w, exec (.opFX65 x) u = .next w ∧ ∀ r : Reg, r ≤ x → w.getV r = s.getV r

/-- Stores are seen by the very next fetch (R75): after a step of FX55 or FX33, each byte of the next word
that it stored, high or low, is the register or the digit stored there; after any step, each byte of the
next word that was not stored is the byte of memory before. Choice: addresses reduced modulo 4096 (D2,
log 11). -/
def Obligations.StoreSeenByNextFetch : Prop :=
  ∀ (i : Instr) (s t : State), s.Inv → decode s.fetch = .ok i → step s = .next t →
    (∀ x, i = .opFX55 x → ∀ r : Reg, r ≤ x →
      (port (s.indexed r) = port t.pc → t.fetch.toNat / 256 = (s.getV r).toNat) ∧
        (port (s.indexed r) = port (t.pc + 1) → t.fetch.toNat % 256 = (s.getV r).toNat)) ∧
    (∀ x, i = .opFX33 x → ∀ k : Fin 3,
      (port (s.index + BitVec.ofNat 16 k.val) = port t.pc →
          t.fetch.toNat / 256 = (s.getV x).toNat / 10 ^ (2 - k.val) % 10) ∧
        (port (s.index + BitVec.ofNat 16 k.val) = port (t.pc + 1) →
          t.fetch.toNat % 256 = (s.getV x).toNat / 10 ^ (2 - k.val) % 10)) ∧
    ((∀ p ∈ storedAddresses i s, port p ≠ port t.pc) →
      t.fetch.toNat / 256 = (s.readByte t.pc).toNat) ∧
    ((∀ p ∈ storedAddresses i s, port p ≠ port (t.pc + 1)) →
      t.fetch.toNat % 256 = (s.readByte (t.pc + 1)).toNat)

/-! ### Display (spec/45_display.md) -/

/-- 00E0: every cell 0, the changed flag set, nothing else, VF untouched (R201). -/
def Obligations.ClearScreen : Prop :=
  ∀ s : State,
    ∃ t, exec .op00E0 s = .next t ∧ (∀ c, Screen.cell t.fb c = false) ∧ t.fbChanged = true ∧
      t.arch = ({ s with fb := t.fb, fbChanged := true, pc := s.pc + 2 } : State).arch

/-- The target cell of a sprite pixel, in full (R203), and so plain addition inside the screen (R207).
Choice: the wrap (D17, log 18). -/
def Obligations.SpriteCellFormula : Prop :=
  ∀ (vx vy : Byte) (row : Fin 16) (col : Fin 8),
    (spriteCell vx vy row col).val =
      (if vy.toNat + row.val ≥ 32 then row.val else vy.toNat + row.val) * 64 +
        (if vx.toNat + col.val ≥ 64 then col.val else vx.toNat + col.val)

/-- "Within one DXYN no cell is targeted twice" (R205). Choice: rests on the wrap (D17, log 18). -/
def Obligations.NoCellTargetedTwice : Prop :=
  ∀ (vx vy : Byte) (row row' : Fin 16) (col col' : Fin 8),
    spriteCell vx vy row col = spriteCell vx vy row' col' → row = row' ∧ col = col'

/-- DXYN: exactly the cells that set sprite bits target are inverted, VF = 1 when one of them held 1 and 0
otherwise (also for N = 0), the changed flag is set, and nothing else changes; the coordinates are the old
VX and VY (R202, R205). Choice: order (D9, log 12), wrap (D17, log 18), bit order (D18, log 19), N = 0 and
the changed flag (D19, log 25). -/
def Obligations.DrawXorsTheSprite : Prop :=
  ∀ (x y : Reg) (n : BitVec 4) (s : State),
    ∃ t, exec (.opDXYN x y n) s = .next t ∧
      (∀ c, s.SpriteTargets (s.getV x) (s.getV y) n c →
        Screen.cell t.fb c = !Screen.cell s.fb c) ∧
      (∀ c, ¬s.SpriteTargets (s.getV x) (s.getV y) n c → Screen.cell t.fb c = Screen.cell s.fb c) ∧
      ((∃ c, s.SpriteTargets (s.getV x) (s.getV y) n c ∧ Screen.cell s.fb c = true) →
        t.getV regF = 1) ∧
      ((¬∃ c, s.SpriteTargets (s.getV x) (s.getV y) n c ∧ Screen.cell s.fb c = true) →
        t.getV regF = 0) ∧
      (∀ r, r ≠ regF → t.getV r = s.getV r) ∧
      t.arch = ({ s with fb := t.fb, fbChanged := true, v := t.v, pc := s.pc + 2 } : State).arch

/-- "drawing the identical sprite at the identical coordinates twice in succession restores the framebuffer
region", and the second VF is 1 exactly when some targeted cell held 0 before the first draw (R206). The
hypotheses say that the first draw's flag did not change a coordinate, so X or Y may be 15. Choice: order
(D9, log 12); that no cell is targeted twice, on which the flag rests, follows from the wrap (D17, log 18). -/
def Obligations.DrawingTwiceRestores : Prop :=
  ∀ (x y : Reg) (n : BitVec 4) (s t : State), exec (.opDXYN x y n) s = .next t →
    t.getV x = s.getV x → t.getV y = s.getV y →
    ∃ u, exec (.opDXYN x y n) t = .next u ∧ u.fb = s.fb ∧
      ((∃ c, s.SpriteTargets (s.getV x) (s.getV y) n c ∧ Screen.cell s.fb c = false) →
        u.getV regF = 1) ∧
      ((¬∃ c, s.SpriteTargets (s.getV x) (s.getV y) n c ∧ Screen.cell s.fb c = false) →
        u.getV regF = 0)

/-! ### Keys and timers (spec/46_keys_timers.md) -/

/-- EX9E and EXA1 skip on the key that VX mod 16 selects, pressed or not pressed, and write nothing but
`pc` (R221, R222). Choice: the low nibble selects (D13, log 14). -/
def Obligations.KeySkips : Prop :=
  ∀ (x : Reg) (s : State) (k : Key), k.val = (s.getV x).toNat % 16 →
    (∃ t, exec (.opEX9E x) s = .next t ∧
      t.pc.toNat = (s.pc.toNat + if s.key[k] = true then 4 else 2) % 65536 ∧
      t.arch = ({ s with pc := t.pc } : State).arch) ∧
    (∃ t, exec (.opEXA1 x) s = .next t ∧
      t.pc.toNat = (s.pc.toNat + if s.key[k] = true then 2 else 4) % 65536 ∧
      t.arch = ({ s with pc := t.pc } : State).arch)

/-- FX0A with some key pressed writes the number of a pressed key into VX (so the key itself when only one
is pressed) and goes on; which one is left open (R223). Choice: any choice function (D14, log 2). -/
def Obligations.KeyReadReportsAPressedKey : Prop :=
  ∀ (x : Reg) (s : State) (k : Key), s.key[k] = true →
    ∃ (t : State) (j : Key), exec (.opFX0A x) s = .next t ∧ s.key[j] = true ∧
      (t.getV x).toNat = j.val ∧ (∀ r, r ≠ x → t.getV r = s.getV r) ∧
      t.arch = ({ s with v := t.v, pc := s.pc + 2 } : State).arch

/-- A ready step on FX0A with no key pressed ends KEY_WAIT: nothing of the spec's state changes, no tick
runs, and stepping again does the same (R127, R223). Choice: no tick (D15, log 6), outcome in `report`
(log 5). -/
def Obligations.KeyWaitChangesNothing : Prop :=
  ∀ (x : Reg) (s : State), s.ready = true → decode s.fetch = .ok (.opFX0A x) →
    (∀ k : Key, s.key[k] = false) →
    ∃ t, step s = .next t ∧ t.report = .keyWait ∧ t.arch = s.arch ∧ step t = .next t

/-- FX07 puts DT into VX, FX15 puts VX into DT, FX18 puts VX into ST, before the tick, and nothing else
(R224 to R226). -/
def Obligations.TimerMoves : Prop :=
  ∀ (x : Reg) (s : State),
    (∃ t, exec (.opFX07 x) s = .next t ∧ t.getV x = s.dt ∧ (∀ r, r ≠ x → t.getV r = s.getV r) ∧
      t.arch = ({ s with v := t.v, pc := s.pc + 2 } : State).arch) ∧
    (∃ t, exec (.opFX15 x) s = .next t ∧
      t.arch = ({ s with dt := s.getV x, pc := s.pc + 2 } : State).arch) ∧
    (∃ t, exec (.opFX18 x) s = .next t ∧
      t.arch = ({ s with st := s.getV x, pc := s.pc + 2 } : State).arch)

/-- FX15 with VX = n followed at once by FX07 reads n - 1, or 0 for n = 0 (R312). -/
def Obligations.DelayReadsBackOneLess : Prop :=
  ∀ (x y : Reg) (s t : State), decode s.fetch = .ok (.opFX15 x) → step s = .next t →
    decode t.fetch = .ok (.opFX07 y) →
    ∃ u, step t = .next u ∧ (u.getV y).toNat = (s.getV x).toNat - 1

/-! ### Reset and the host (spec/70_reset_and_hazards.md, spec/49_host_interface.md) -/

/-- `reset(rom)`, whatever the state before: with at most 3584 bytes the state is exactly that of R40; with
more it fails and leaves `ready = 0` (R40, R300). Choice: the `ready` bit (D21, log 9); `font` is the model's
table (D20, PRESUMED, log 3), but the statement holds whatever its bytes are. -/
def Obligations.ResetLeavesTheStatedState : Prop :=
  ∀ (rom : List Byte) (s : State),
    (rom.length ≤ 3584 →
      ∃ t, resetRom rom s = .success t ∧ (∀ r, t.getV r = 0) ∧ t.index = 0 ∧ t.pc = 0x0200 ∧
        (∀ k : Fin 16, t.stack[k] = 0) ∧ t.sp = 0 ∧ t.dt = 0 ∧ t.st = 0 ∧
        (∀ c, Screen.cell t.fb c = false) ∧ t.fbChanged = true ∧ (∀ k : Key, t.key[k] = false) ∧
        t.ready = true ∧ font.length = 80 ∧
        ∀ a, a < 4096 →
          Memory.read t.mem a =
            if a < 80 then font.getD a 0
            else if 0x200 ≤ a ∧ a < 0x200 + rom.length then rom.getD (a - 0x200) 0 else 0) ∧
    (rom.length > 3584 → ∃ t, resetRom rom s = .romTooLarge t ∧ t.ready = false)

/-- The core's reset state is the state a reset with an empty ROM leaves, and its first step reports
UNKNOWN_OPCODE(0x0000) (R305). Choice: log 4, log 10. -/
def Obligations.EmptyRomStopsAtOnce : Prop :=
  resetRom [] State.reset = .success Sys2Proof.core.reset ∧
    Sys2Proof.core.step Sys2Proof.core.reset =
      .next { State.reset with report := .unknownOpcode 0x0000 }

/-- Every operation of the host, steps and failed resets among them, keeps memory in canonical form
(R240, R248; log 7, log 20). Choice: what a failed reset leaves (D21, log 9). -/
def Obligations.HostMovesKeepCanonicalMemory : Prop :=
  ∀ (m : Move) (s t : State), s.Inv → act m s = .next t → t.Inv

/-- The host writes the key state, clears the changed flag, and pokes `pc`, DT and ST, each leaving all else
alone (R244, R245, R247). Choice: the list of pokes (D24, log 20); that they still write this one piece of
state, and no more, when `ready = 0` (R41, R302, log 9). -/
def Obligations.HostWritesOnlyItsOwn : Prop :=
  ∀ (s : State) (i : Key) (b : Bool) (w : Word) (d : Byte),
    (∃ t, act (.writeKey i b) s = .next t ∧ t.key[i] = b ∧
      (∀ k : Key, k ≠ i → t.key[k] = s.key[k]) ∧ t = { s with key := t.key }) ∧
    act .ackChanged s = .next { s with fbChanged := false } ∧
    act (.pokePc w) s = .next { s with pc := w } ∧
    act (.pokeDT d) s = .next { s with dt := d } ∧
    act (.pokeST d) s = .next { s with st := d }

/-! ### Sprite bits (spec/45_display.md R202, R204) -/

/-- A sprite's bit at a row and a column is bit `7 - column` of the byte of memory at I + row (R202, R204),
which ties the sprite of DrawXorsTheSprite and DrawingTwiceRestores to memory. Choice: bit 7 is the left pixel
(D18, PRESUMED, log 19), the address is reduced modulo 4096 (D2, log 11). -/
def Obligations.SpriteBitsAreMemoryBits : Prop :=
  ∀ (s : State) (row : Fin 16) (col : Fin 8),
    s.spriteBit row col =
      (Memory.read s.mem ((s.index.toNat + row.val) % 4096)).toNat.testBit (7 - col.val)
end

