-- ==== Sys2Proof/Laws/Memory.lean ====
section
/-!
SUPPORT. Laws of memory as a list of cells: every operation keeps the canonical form, a read after a write
gives what was written, and a write leaves every other address alone.
-/

namespace Sys2Proof.Machine

theorem Memory.wfFrom_cons (lo a : Nat) (b : Byte) (m : Memory) :
    Memory.wfFrom lo ((a, b) :: m) = true ↔
      lo ≤ a ∧ a < 4096 ∧ b ≠ Memory.initial a ∧ Memory.wfFrom (a + 1) m = true := by
  simp [Memory.wfFrom, and_assoc]

theorem Memory.wfFrom_mono {lo lo' : Nat} (h : lo' ≤ lo) :
    ∀ {m : Memory}, Memory.wfFrom lo m = true → Memory.wfFrom lo' m = true
  | [], _ => rfl
  | (a, b) :: m, hm => by
    rw [Memory.wfFrom_cons] at hm ⊢
    exact ⟨le_trans h hm.1, hm.2⟩

/-- An address below a canonical memory's lowest is unlisted. -/
theorem Memory.read_below {lo a : Nat} (h : a < lo) :
    ∀ {m : Memory}, Memory.wfFrom lo m = true → Memory.read m a = Memory.initial a
  | [], _ => rfl
  | (b, v) :: m, hm => by
    rw [Memory.wfFrom_cons] at hm
    rw [Memory.read, if_neg (by omega)]
    exact Memory.read_below (by omega) hm.2.2.2

theorem Memory.put_wfFrom {lo a : Nat} {v : Byte} {m : Memory} (hlo : lo ≤ a) (ha : a < 4096)
    (hm : Memory.wfFrom (a + 1) m = true) : Memory.wfFrom lo (Memory.put m a v) = true := by
  unfold Memory.put
  split
  · exact Memory.wfFrom_mono (by omega) hm
  · next h => exact (Memory.wfFrom_cons ..).2 ⟨hlo, ha, h, hm⟩

theorem Memory.write_wfFrom {a : Nat} (ha : a < 4096) (v : Byte) :
    ∀ {m : Memory} {lo : Nat}, lo ≤ a → Memory.wfFrom lo m = true →
      Memory.wfFrom lo (Memory.write m a v) = true
  | [], _, hlo, _ => Memory.put_wfFrom hlo ha rfl
  | (b, w) :: m, _, hlo, hm => by
    have h := (Memory.wfFrom_cons ..).1 hm
    rw [Memory.write]
    split
    · exact Memory.put_wfFrom hlo ha ((Memory.wfFrom_cons ..).2 ⟨by omega, h.2⟩)
    · split
      · next hab => exact Memory.put_wfFrom hlo ha (hab ▸ h.2.2.2)
      · exact (Memory.wfFrom_cons ..).2
          ⟨h.1, h.2.1, h.2.2.1, Memory.write_wfFrom ha v (by omega) h.2.2.2⟩

/-- Writing keeps the canonical form. -/
theorem Memory.write_wf {m : Memory} {a : Nat} (ha : a < 4096) (v : Byte)
    (hm : Memory.wf m = true) : Memory.wf (Memory.write m a v) = true :=
  Memory.write_wfFrom ha v (Nat.zero_le a) hm

theorem Memory.read_put_ne {m : Memory} {a b : Nat} (v : Byte) (h : b ≠ a) :
    Memory.read (Memory.put m a v) b = Memory.read m b := by
  unfold Memory.put
  split
  · rfl
  · rw [Memory.read, if_neg (Ne.symm h)]

theorem Memory.read_put_self {m : Memory} {a : Nat} (v : Byte)
    (hm : Memory.wfFrom (a + 1) m = true) : Memory.read (Memory.put m a v) a = v := by
  unfold Memory.put
  split
  · next h => rw [Memory.read_below (by omega) hm, h]
  · rw [Memory.read, if_pos rfl]

/-- A write leaves every other address alone, whatever the memory's form. -/
theorem Memory.read_write_ne {a b : Nat} (v : Byte) (h : b ≠ a) :
    ∀ (m : Memory), Memory.read (Memory.write m a v) b = Memory.read m b
  | [] => Memory.read_put_ne v h
  | (c, w) :: m => by
    rw [Memory.write]
    split
    · exact Memory.read_put_ne v h
    · split
      · next hac => rw [Memory.read_put_ne v h, Memory.read, if_neg (by omega)]
      · rw [Memory.read, Memory.read, Memory.read_write_ne v h m]

theorem Memory.read_write_self_from {a : Nat} (v : Byte) :
    ∀ {m : Memory} {lo : Nat}, lo ≤ a → Memory.wfFrom lo m = true →
      Memory.read (Memory.write m a v) a = v
  | [], _, _, _ => Memory.read_put_self v rfl
  | (b, w) :: m, _, _, hm => by
    have h := (Memory.wfFrom_cons ..).1 hm
    rw [Memory.write]
    split
    · exact Memory.read_put_self v ((Memory.wfFrom_cons ..).2 ⟨by omega, h.2⟩)
    · split
      · next hab => exact Memory.read_put_self v (hab ▸ h.2.2.2)
      · rw [Memory.read, if_neg (by omega)]
        exact Memory.read_write_self_from v (by omega) h.2.2.2

/-- A read after a write to the same address gives the value written. -/
theorem Memory.read_write_self {m : Memory} (a : Nat) (v : Byte) (hm : Memory.wf m = true) :
    Memory.read (Memory.write m a v) a = v :=
  Memory.read_write_self_from v (Nat.zero_le a) hm

/-- Writing a range keeps the canonical form. -/
theorem Memory.writeRange_wf :
    ∀ (bs : List Byte) {m : Memory} {a : Nat}, a + bs.length ≤ 4096 → Memory.wf m = true →
      Memory.wf (Memory.writeRange m a bs) = true
  | [], _, _, _, hm => hm
  | b :: bs, _, _, h, hm => by
    rw [List.length_cons] at h
    exact Memory.writeRange_wf bs (by omega) (Memory.write_wf (by omega) b hm)

/-- A written range leaves every address outside it alone. -/
theorem Memory.read_writeRange_outside {c : Nat} :
    ∀ (bs : List Byte) (m : Memory) (a : Nat), c < a ∨ a + bs.length ≤ c →
      Memory.read (Memory.writeRange m a bs) c = Memory.read m c
  | [], _, _, _ => rfl
  | b :: bs, m, a, h => by
    rw [List.length_cons] at h
    rw [Memory.writeRange, Memory.read_writeRange_outside bs _ _ (by omega),
      Memory.read_write_ne b (by omega)]

/-- A written range reads back as its bytes. -/
theorem Memory.read_writeRange_inside {k : Nat} :
    ∀ (bs : List Byte) {m : Memory} {a : Nat} (h : k < bs.length), a + bs.length ≤ 4096 →
      Memory.wf m = true → Memory.read (Memory.writeRange m a bs) (a + k) = bs[k]
  | b :: bs, m, a, h, hle, hm => by
    rw [List.length_cons] at hle
    rw [Memory.writeRange]
    cases k with
    | zero =>
      rw [Memory.read_writeRange_outside bs _ _ (by omega)]
      exact Memory.read_write_self a b hm
    | succ k =>
      rw [show a + (k + 1) = a + 1 + k by omega,
        Memory.read_writeRange_inside bs (by simpa using h) (by omega)
          (Memory.write_wf (by omega) b hm)]
      rfl

/-- The canonical form of any list of cells is canonical. -/
theorem Memory.canon_wf : ∀ (m : Memory), Memory.wf (Memory.canon m) = true
  | [] => rfl
  | (_, b) :: m => Memory.write_wf (Nat.mod_lt _ (by decide)) b (Memory.canon_wf m)

theorem Memory.write_before {lo a : Nat} {b : Byte} (hb : b ≠ Memory.initial a) (h : a < lo) :
    ∀ {m : Memory}, Memory.wfFrom lo m = true → Memory.write m a b = (a, b) :: m
  | [], _ => by simp [Memory.write, Memory.put, hb]
  | (c, w) :: m, hm => by
    have := ((Memory.wfFrom_cons ..).1 hm).1
    rw [Memory.write, if_pos (by omega), Memory.put, if_neg hb]

/-- A canonical memory is its own canonical form, so `canon` loses no memory. -/
theorem Memory.canon_of_wfFrom :
    ∀ {m : Memory} {lo : Nat}, Memory.wfFrom lo m = true → Memory.canon m = m
  | [], _, _ => rfl
  | (a, b) :: m, _, hm => by
    have h := (Memory.wfFrom_cons ..).1 hm
    show Memory.write (Memory.canon m) (a % 4096) b = _
    rw [Memory.canon_of_wfFrom h.2.2.2, Nat.mod_eq_of_lt h.2.1]
    exact Memory.write_before h.2.2.1 (Nat.lt_succ_self a) h.2.2.2

end Sys2Proof.Machine
end

