-- ==== Sys2Proof/Laws/State.lean ====
section
/-!
SUPPORT. One lemma per field per update of State, so that no later proof unfolds a record update.
-/

namespace Sys2Proof.Machine

/-! ### `setV` -/

@[simp] theorem State.setV_v (s : State) (x : Reg) (b : Byte) :
    (s.setV x b).v = s.v.set x.val b x.isLt := rfl
@[simp] theorem State.setV_index (s : State) (x : Reg) (b : Byte) :
    (s.setV x b).index = s.index := rfl
@[simp] theorem State.setV_pc (s : State) (x : Reg) (b : Byte) :
    (s.setV x b).pc = s.pc := rfl
@[simp] theorem State.setV_stack (s : State) (x : Reg) (b : Byte) :
    (s.setV x b).stack = s.stack := rfl
@[simp] theorem State.setV_sp (s : State) (x : Reg) (b : Byte) :
    (s.setV x b).sp = s.sp := rfl
@[simp] theorem State.setV_dt (s : State) (x : Reg) (b : Byte) :
    (s.setV x b).dt = s.dt := rfl
@[simp] theorem State.setV_st (s : State) (x : Reg) (b : Byte) :
    (s.setV x b).st = s.st := rfl
@[simp] theorem State.setV_fb (s : State) (x : Reg) (b : Byte) :
    (s.setV x b).fb = s.fb := rfl
@[simp] theorem State.setV_fbChanged (s : State) (x : Reg) (b : Byte) :
    (s.setV x b).fbChanged = s.fbChanged := rfl
@[simp] theorem State.setV_key (s : State) (x : Reg) (b : Byte) :
    (s.setV x b).key = s.key := rfl
@[simp] theorem State.setV_mem (s : State) (x : Reg) (b : Byte) :
    (s.setV x b).mem = s.mem := rfl
@[simp] theorem State.setV_ready (s : State) (x : Reg) (b : Byte) :
    (s.setV x b).ready = s.ready := rfl
@[simp] theorem State.setV_report (s : State) (x : Reg) (b : Byte) :
    (s.setV x b).report = s.report := rfl
@[simp] theorem State.setV_free (s : State) (x : Reg) (b : Byte) :
    (s.setV x b).free = s.free := rfl

/-! ### `setVF` -/

@[simp] theorem State.setVF_v (s : State) (b : Bool) :
    (s.setVF b).v = s.v.set 15 (flagByte b) := rfl
@[simp] theorem State.setVF_index (s : State) (b : Bool) :
    (s.setVF b).index = s.index := rfl
@[simp] theorem State.setVF_pc (s : State) (b : Bool) :
    (s.setVF b).pc = s.pc := rfl
@[simp] theorem State.setVF_stack (s : State) (b : Bool) :
    (s.setVF b).stack = s.stack := rfl
@[simp] theorem State.setVF_sp (s : State) (b : Bool) :
    (s.setVF b).sp = s.sp := rfl
@[simp] theorem State.setVF_dt (s : State) (b : Bool) :
    (s.setVF b).dt = s.dt := rfl
@[simp] theorem State.setVF_st (s : State) (b : Bool) :
    (s.setVF b).st = s.st := rfl
@[simp] theorem State.setVF_fb (s : State) (b : Bool) :
    (s.setVF b).fb = s.fb := rfl
@[simp] theorem State.setVF_fbChanged (s : State) (b : Bool) :
    (s.setVF b).fbChanged = s.fbChanged := rfl
@[simp] theorem State.setVF_key (s : State) (b : Bool) :
    (s.setVF b).key = s.key := rfl
@[simp] theorem State.setVF_mem (s : State) (b : Bool) :
    (s.setVF b).mem = s.mem := rfl
@[simp] theorem State.setVF_ready (s : State) (b : Bool) :
    (s.setVF b).ready = s.ready := rfl
@[simp] theorem State.setVF_report (s : State) (b : Bool) :
    (s.setVF b).report = s.report := rfl
@[simp] theorem State.setVF_free (s : State) (b : Bool) :
    (s.setVF b).free = s.free := rfl

/-! ### `setFlagged` -/

@[simp] theorem State.setFlagged_v (s : State) (x : Reg) (b : Byte) (c : Bool) :
    (s.setFlagged x b c).v = (s.v.set x.val b x.isLt).set 15 (flagByte c) := rfl
@[simp] theorem State.setFlagged_index (s : State) (x : Reg) (b : Byte) (c : Bool) :
    (s.setFlagged x b c).index = s.index := rfl
@[simp] theorem State.setFlagged_pc (s : State) (x : Reg) (b : Byte) (c : Bool) :
    (s.setFlagged x b c).pc = s.pc := rfl
@[simp] theorem State.setFlagged_stack (s : State) (x : Reg) (b : Byte) (c : Bool) :
    (s.setFlagged x b c).stack = s.stack := rfl
@[simp] theorem State.setFlagged_sp (s : State) (x : Reg) (b : Byte) (c : Bool) :
    (s.setFlagged x b c).sp = s.sp := rfl
@[simp] theorem State.setFlagged_dt (s : State) (x : Reg) (b : Byte) (c : Bool) :
    (s.setFlagged x b c).dt = s.dt := rfl
@[simp] theorem State.setFlagged_st (s : State) (x : Reg) (b : Byte) (c : Bool) :
    (s.setFlagged x b c).st = s.st := rfl
@[simp] theorem State.setFlagged_fb (s : State) (x : Reg) (b : Byte) (c : Bool) :
    (s.setFlagged x b c).fb = s.fb := rfl
@[simp] theorem State.setFlagged_fbChanged (s : State) (x : Reg) (b : Byte) (c : Bool) :
    (s.setFlagged x b c).fbChanged = s.fbChanged := rfl
@[simp] theorem State.setFlagged_key (s : State) (x : Reg) (b : Byte) (c : Bool) :
    (s.setFlagged x b c).key = s.key := rfl
@[simp] theorem State.setFlagged_mem (s : State) (x : Reg) (b : Byte) (c : Bool) :
    (s.setFlagged x b c).mem = s.mem := rfl
@[simp] theorem State.setFlagged_ready (s : State) (x : Reg) (b : Byte) (c : Bool) :
    (s.setFlagged x b c).ready = s.ready := rfl
@[simp] theorem State.setFlagged_report (s : State) (x : Reg) (b : Byte) (c : Bool) :
    (s.setFlagged x b c).report = s.report := rfl
@[simp] theorem State.setFlagged_free (s : State) (x : Reg) (b : Byte) (c : Bool) :
    (s.setFlagged x b c).free = s.free := rfl

/-! ### `setIndex` -/

@[simp] theorem State.setIndex_v (s : State) (w : Word) :
    (s.setIndex w).v = s.v := rfl
@[simp] theorem State.setIndex_index (s : State) (w : Word) :
    (s.setIndex w).index = w := rfl
@[simp] theorem State.setIndex_pc (s : State) (w : Word) :
    (s.setIndex w).pc = s.pc := rfl
@[simp] theorem State.setIndex_stack (s : State) (w : Word) :
    (s.setIndex w).stack = s.stack := rfl
@[simp] theorem State.setIndex_sp (s : State) (w : Word) :
    (s.setIndex w).sp = s.sp := rfl
@[simp] theorem State.setIndex_dt (s : State) (w : Word) :
    (s.setIndex w).dt = s.dt := rfl
@[simp] theorem State.setIndex_st (s : State) (w : Word) :
    (s.setIndex w).st = s.st := rfl
@[simp] theorem State.setIndex_fb (s : State) (w : Word) :
    (s.setIndex w).fb = s.fb := rfl
@[simp] theorem State.setIndex_fbChanged (s : State) (w : Word) :
    (s.setIndex w).fbChanged = s.fbChanged := rfl
@[simp] theorem State.setIndex_key (s : State) (w : Word) :
    (s.setIndex w).key = s.key := rfl
@[simp] theorem State.setIndex_mem (s : State) (w : Word) :
    (s.setIndex w).mem = s.mem := rfl
@[simp] theorem State.setIndex_ready (s : State) (w : Word) :
    (s.setIndex w).ready = s.ready := rfl
@[simp] theorem State.setIndex_report (s : State) (w : Word) :
    (s.setIndex w).report = s.report := rfl
@[simp] theorem State.setIndex_free (s : State) (w : Word) :
    (s.setIndex w).free = s.free := rfl

/-! ### `writeByte` -/

@[simp] theorem State.writeByte_v (s : State) (a : Word) (b : Byte) :
    (s.writeByte a b).v = s.v := rfl
@[simp] theorem State.writeByte_index (s : State) (a : Word) (b : Byte) :
    (s.writeByte a b).index = s.index := rfl
@[simp] theorem State.writeByte_pc (s : State) (a : Word) (b : Byte) :
    (s.writeByte a b).pc = s.pc := rfl
@[simp] theorem State.writeByte_stack (s : State) (a : Word) (b : Byte) :
    (s.writeByte a b).stack = s.stack := rfl
@[simp] theorem State.writeByte_sp (s : State) (a : Word) (b : Byte) :
    (s.writeByte a b).sp = s.sp := rfl
@[simp] theorem State.writeByte_dt (s : State) (a : Word) (b : Byte) :
    (s.writeByte a b).dt = s.dt := rfl
@[simp] theorem State.writeByte_st (s : State) (a : Word) (b : Byte) :
    (s.writeByte a b).st = s.st := rfl
@[simp] theorem State.writeByte_fb (s : State) (a : Word) (b : Byte) :
    (s.writeByte a b).fb = s.fb := rfl
@[simp] theorem State.writeByte_fbChanged (s : State) (a : Word) (b : Byte) :
    (s.writeByte a b).fbChanged = s.fbChanged := rfl
@[simp] theorem State.writeByte_key (s : State) (a : Word) (b : Byte) :
    (s.writeByte a b).key = s.key := rfl
@[simp] theorem State.writeByte_mem (s : State) (a : Word) (b : Byte) :
    (s.writeByte a b).mem = Memory.write s.mem (port a) b := rfl
@[simp] theorem State.writeByte_ready (s : State) (a : Word) (b : Byte) :
    (s.writeByte a b).ready = s.ready := rfl
@[simp] theorem State.writeByte_report (s : State) (a : Word) (b : Byte) :
    (s.writeByte a b).report = s.report := rfl
@[simp] theorem State.writeByte_free (s : State) (a : Word) (b : Byte) :
    (s.writeByte a b).free = s.free := rfl

/-! ### `finish` -/

@[simp] theorem State.finish_v (s : State) (w : Word) :
    (s.finish w).v = s.v := rfl
@[simp] theorem State.finish_index (s : State) (w : Word) :
    (s.finish w).index = s.index := rfl
@[simp] theorem State.finish_pc (s : State) (w : Word) :
    (s.finish w).pc = w := rfl
@[simp] theorem State.finish_stack (s : State) (w : Word) :
    (s.finish w).stack = s.stack := rfl
@[simp] theorem State.finish_sp (s : State) (w : Word) :
    (s.finish w).sp = s.sp := rfl
@[simp] theorem State.finish_dt (s : State) (w : Word) :
    (s.finish w).dt = s.dt := rfl
@[simp] theorem State.finish_st (s : State) (w : Word) :
    (s.finish w).st = s.st := rfl
@[simp] theorem State.finish_fb (s : State) (w : Word) :
    (s.finish w).fb = s.fb := rfl
@[simp] theorem State.finish_fbChanged (s : State) (w : Word) :
    (s.finish w).fbChanged = s.fbChanged := rfl
@[simp] theorem State.finish_key (s : State) (w : Word) :
    (s.finish w).key = s.key := rfl
@[simp] theorem State.finish_mem (s : State) (w : Word) :
    (s.finish w).mem = s.mem := rfl
@[simp] theorem State.finish_ready (s : State) (w : Word) :
    (s.finish w).ready = s.ready := rfl
@[simp] theorem State.finish_report (s : State) (w : Word) :
    (s.finish w).report = .ok false := rfl
@[simp] theorem State.finish_free (s : State) (w : Word) :
    (s.finish w).free = s.free := rfl

/-! ### `sequential` -/

@[simp] theorem State.sequential_v (s : State) :
    (s.sequential).v = s.v := rfl
@[simp] theorem State.sequential_index (s : State) :
    (s.sequential).index = s.index := rfl
@[simp] theorem State.sequential_pc (s : State) :
    (s.sequential).pc = s.pc + 2 := rfl
@[simp] theorem State.sequential_stack (s : State) :
    (s.sequential).stack = s.stack := rfl
@[simp] theorem State.sequential_sp (s : State) :
    (s.sequential).sp = s.sp := rfl
@[simp] theorem State.sequential_dt (s : State) :
    (s.sequential).dt = s.dt := rfl
@[simp] theorem State.sequential_st (s : State) :
    (s.sequential).st = s.st := rfl
@[simp] theorem State.sequential_fb (s : State) :
    (s.sequential).fb = s.fb := rfl
@[simp] theorem State.sequential_fbChanged (s : State) :
    (s.sequential).fbChanged = s.fbChanged := rfl
@[simp] theorem State.sequential_key (s : State) :
    (s.sequential).key = s.key := rfl
@[simp] theorem State.sequential_mem (s : State) :
    (s.sequential).mem = s.mem := rfl
@[simp] theorem State.sequential_ready (s : State) :
    (s.sequential).ready = s.ready := rfl
@[simp] theorem State.sequential_report (s : State) :
    (s.sequential).report = .ok false := rfl
@[simp] theorem State.sequential_free (s : State) :
    (s.sequential).free = s.free := rfl

/-! ### `skipIf` -/

@[simp] theorem State.skipIf_v (s : State) (c : Bool) :
    (s.skipIf c).v = s.v := rfl
@[simp] theorem State.skipIf_index (s : State) (c : Bool) :
    (s.skipIf c).index = s.index := rfl
@[simp] theorem State.skipIf_pc (s : State) (c : Bool) :
    (s.skipIf c).pc = if c then s.pc + 4 else s.pc + 2 := rfl
@[simp] theorem State.skipIf_stack (s : State) (c : Bool) :
    (s.skipIf c).stack = s.stack := rfl
@[simp] theorem State.skipIf_sp (s : State) (c : Bool) :
    (s.skipIf c).sp = s.sp := rfl
@[simp] theorem State.skipIf_dt (s : State) (c : Bool) :
    (s.skipIf c).dt = s.dt := rfl
@[simp] theorem State.skipIf_st (s : State) (c : Bool) :
    (s.skipIf c).st = s.st := rfl
@[simp] theorem State.skipIf_fb (s : State) (c : Bool) :
    (s.skipIf c).fb = s.fb := rfl
@[simp] theorem State.skipIf_fbChanged (s : State) (c : Bool) :
    (s.skipIf c).fbChanged = s.fbChanged := rfl
@[simp] theorem State.skipIf_key (s : State) (c : Bool) :
    (s.skipIf c).key = s.key := rfl
@[simp] theorem State.skipIf_mem (s : State) (c : Bool) :
    (s.skipIf c).mem = s.mem := rfl
@[simp] theorem State.skipIf_ready (s : State) (c : Bool) :
    (s.skipIf c).ready = s.ready := rfl
@[simp] theorem State.skipIf_report (s : State) (c : Bool) :
    (s.skipIf c).report = .ok false := rfl
@[simp] theorem State.skipIf_free (s : State) (c : Bool) :
    (s.skipIf c).free = s.free := rfl

/-! ### `waitForKey` -/

@[simp] theorem State.waitForKey_v (s : State) :
    (s.waitForKey).v = s.v := rfl
@[simp] theorem State.waitForKey_index (s : State) :
    (s.waitForKey).index = s.index := rfl
@[simp] theorem State.waitForKey_pc (s : State) :
    (s.waitForKey).pc = s.pc := rfl
@[simp] theorem State.waitForKey_stack (s : State) :
    (s.waitForKey).stack = s.stack := rfl
@[simp] theorem State.waitForKey_sp (s : State) :
    (s.waitForKey).sp = s.sp := rfl
@[simp] theorem State.waitForKey_dt (s : State) :
    (s.waitForKey).dt = s.dt := rfl
@[simp] theorem State.waitForKey_st (s : State) :
    (s.waitForKey).st = s.st := rfl
@[simp] theorem State.waitForKey_fb (s : State) :
    (s.waitForKey).fb = s.fb := rfl
@[simp] theorem State.waitForKey_fbChanged (s : State) :
    (s.waitForKey).fbChanged = s.fbChanged := rfl
@[simp] theorem State.waitForKey_key (s : State) :
    (s.waitForKey).key = s.key := rfl
@[simp] theorem State.waitForKey_mem (s : State) :
    (s.waitForKey).mem = s.mem := rfl
@[simp] theorem State.waitForKey_ready (s : State) :
    (s.waitForKey).ready = s.ready := rfl
@[simp] theorem State.waitForKey_report (s : State) :
    (s.waitForKey).report = .keyWait := rfl
@[simp] theorem State.waitForKey_free (s : State) :
    (s.waitForKey).free = s.free := rfl

/-! ### `tick` -/

@[simp] theorem State.tick_v (s : State) :
    (s.tick).v = s.v := rfl
@[simp] theorem State.tick_index (s : State) :
    (s.tick).index = s.index := rfl
@[simp] theorem State.tick_pc (s : State) :
    (s.tick).pc = s.pc := rfl
@[simp] theorem State.tick_stack (s : State) :
    (s.tick).stack = s.stack := rfl
@[simp] theorem State.tick_sp (s : State) :
    (s.tick).sp = s.sp := rfl
@[simp] theorem State.tick_dt (s : State) :
    (s.tick).dt = countDown s.dt := rfl
@[simp] theorem State.tick_st (s : State) :
    (s.tick).st = countDown s.st := rfl
@[simp] theorem State.tick_fb (s : State) :
    (s.tick).fb = s.fb := rfl
@[simp] theorem State.tick_fbChanged (s : State) :
    (s.tick).fbChanged = s.fbChanged := rfl
@[simp] theorem State.tick_key (s : State) :
    (s.tick).key = s.key := rfl
@[simp] theorem State.tick_mem (s : State) :
    (s.tick).mem = s.mem := rfl
@[simp] theorem State.tick_ready (s : State) :
    (s.tick).ready = s.ready := rfl
@[simp] theorem State.tick_report (s : State) :
    (s.tick).report = .ok (s.st == 1) := rfl
@[simp] theorem State.tick_free (s : State) :
    (s.tick).free = s.free := rfl

/-! ### `arch` -/

@[simp] theorem State.arch_v (s : State) :
    (s.arch).v = s.v := rfl
@[simp] theorem State.arch_index (s : State) :
    (s.arch).index = s.index := rfl
@[simp] theorem State.arch_pc (s : State) :
    (s.arch).pc = s.pc := rfl
@[simp] theorem State.arch_stack (s : State) :
    (s.arch).stack = s.stack := rfl
@[simp] theorem State.arch_sp (s : State) :
    (s.arch).sp = s.sp := rfl
@[simp] theorem State.arch_dt (s : State) :
    (s.arch).dt = s.dt := rfl
@[simp] theorem State.arch_st (s : State) :
    (s.arch).st = s.st := rfl
@[simp] theorem State.arch_fb (s : State) :
    (s.arch).fb = s.fb := rfl
@[simp] theorem State.arch_fbChanged (s : State) :
    (s.arch).fbChanged = s.fbChanged := rfl
@[simp] theorem State.arch_key (s : State) :
    (s.arch).key = s.key := rfl
@[simp] theorem State.arch_mem (s : State) :
    (s.arch).mem = s.mem := rfl
@[simp] theorem State.arch_ready (s : State) :
    (s.arch).ready = s.ready := rfl
@[simp] theorem State.arch_report (s : State) :
    (s.arch).report = .idle := rfl
@[simp] theorem State.arch_free (s : State) :
    (s.arch).free = 0 := rfl

/-! ### Reading a register after an update -/

@[simp] theorem State.getV_setV_self (s : State) (x : Reg) (b : Byte) :
    (s.setV x b).getV x = b := by
  simp [State.getV]

@[simp] theorem State.getV_setV_ne (s : State) {x r : Reg} (b : Byte) (h : r ≠ x) :
    (s.setV x b).getV r = s.getV r := by
  have : x.val ≠ r.val := fun e => h (Fin.ext e.symm)
  simp [State.getV, Vector.getElem_set_ne _ _ this]

/-- Reading any register after writing one. -/
theorem State.getV_setV (s : State) (x r : Reg) (b : Byte) :
    (s.setV x b).getV r = if r = x then b else s.getV r := by
  split
  · next h => rw [h, State.getV_setV_self]
  · next h => exact State.getV_setV_ne s b h

/-- The flag write comes last: VF holds the flag whichever register the result went to. -/
@[simp] theorem State.getV_setFlagged_flag (s : State) (x : Reg) (b : Byte) (c : Bool) :
    (s.setFlagged x b c).getV regF = flagByte c := State.getV_setV_self ..

theorem State.getV_setFlagged_result (s : State) {x : Reg} (b : Byte) (c : Bool) (h : x ≠ regF) :
    (s.setFlagged x b c).getV x = b := by
  simp [State.setFlagged, State.setVF, h]

theorem State.getV_setFlagged_ne (s : State) {x r : Reg} (b : Byte) (c : Bool) (hx : r ≠ x)
    (hf : r ≠ regF) : (s.setFlagged x b c).getV r = s.getV r := by
  simp [State.setFlagged, State.setVF, hx, hf]

@[simp] theorem State.getV_setVF_flag (s : State) (b : Bool) :
    (s.setVF b).getV regF = flagByte b := State.getV_setV_self ..

@[simp] theorem State.getV_setVF_ne (s : State) {r : Reg} (b : Bool) (h : r ≠ regF) :
    (s.setVF b).getV r = s.getV r := State.getV_setV_ne s _ h

@[simp] theorem State.getV_setIndex (s : State) (w : Word) (r : Reg) :
    (s.setIndex w).getV r = s.getV r := rfl
@[simp] theorem State.getV_writeByte (s : State) (a : Word) (b : Byte) (r : Reg) :
    (s.writeByte a b).getV r = s.getV r := rfl
@[simp] theorem State.getV_finish (s : State) (w : Word) (r : Reg) :
    (s.finish w).getV r = s.getV r := rfl
@[simp] theorem State.getV_sequential (s : State) (r : Reg) :
    (s.sequential).getV r = s.getV r := rfl
@[simp] theorem State.getV_skipIf (s : State) (c : Bool) (r : Reg) :
    (s.skipIf c).getV r = s.getV r := rfl
@[simp] theorem State.getV_waitForKey (s : State) (r : Reg) :
    (s.waitForKey).getV r = s.getV r := rfl
@[simp] theorem State.getV_tick (s : State) (r : Reg) :
    (s.tick).getV r = s.getV r := rfl
@[simp] theorem State.getV_arch (s : State) (r : Reg) :
    (s.arch).getV r = s.getV r := rfl

/-! ### Reading a byte after an update -/

@[simp] theorem State.readByte_setV (s : State) (x : Reg) (b : Byte) (p : Word) :
    (s.setV x b).readByte p = s.readByte p := rfl
@[simp] theorem State.readByte_setVF (s : State) (b : Bool) (p : Word) :
    (s.setVF b).readByte p = s.readByte p := rfl
@[simp] theorem State.readByte_setFlagged (s : State) (x : Reg) (b : Byte) (c : Bool) (p : Word) :
    (s.setFlagged x b c).readByte p = s.readByte p := rfl
@[simp] theorem State.readByte_setIndex (s : State) (w : Word) (p : Word) :
    (s.setIndex w).readByte p = s.readByte p := rfl
@[simp] theorem State.readByte_finish (s : State) (w : Word) (p : Word) :
    (s.finish w).readByte p = s.readByte p := rfl
@[simp] theorem State.readByte_sequential (s : State) (p : Word) :
    (s.sequential).readByte p = s.readByte p := rfl
@[simp] theorem State.readByte_skipIf (s : State) (c : Bool) (p : Word) :
    (s.skipIf c).readByte p = s.readByte p := rfl
@[simp] theorem State.readByte_waitForKey (s : State) (p : Word) :
    (s.waitForKey).readByte p = s.readByte p := rfl
@[simp] theorem State.readByte_tick (s : State) (p : Word) :
    (s.tick).readByte p = s.readByte p := rfl
@[simp] theorem State.readByte_arch (s : State) (p : Word) :
    (s.arch).readByte p = s.readByte p := rfl

/-- Two states with the same general registers have the same register vector. -/
theorem State.v_ext {s t : State} (h : ∀ r, s.getV r = t.getV r) : s.v = t.v :=
  Vector.ext fun k hk => h ⟨k, hk⟩

end Sys2Proof.Machine
end

