-- ==== Sys2Proof/Laws/Ops.lean ====
section
/-!
SUPPORT. What each shared operation can do, said once: the memory port, the call stack, the operand forms,
and the stages of a step around execute.
-/

namespace Sys2Proof.Machine

/-! ### The memory port -/

theorem port_lt (a : Word) : port a < 4096 := Nat.mod_lt _ (by decide)

/-- The 16-bit sum and the reduction compose: 4096 divides 65536 (R68). -/
theorem port_add (a : Word) (k : Nat) : port (a + BitVec.ofNat 16 k) = (a.toNat + k) % 4096 := by
  simp [port, BitVec.toNat_add]

theorem State.readByte_writeByte_self {s : State} (a : Word) (b : Byte) (h : s.Inv) :
    (s.writeByte a b).readByte a = b := Memory.read_write_self _ b h

theorem State.readByte_writeByte_ne (s : State) {a p : Word} (b : Byte) (h : port p ≠ port a) :
    (s.writeByte a b).readByte p = s.readByte p := Memory.read_write_ne b h _

theorem State.writeByte_inv {s : State} (a : Word) (b : Byte) (h : s.Inv) : (s.writeByte a b).Inv :=
  Memory.write_wf (port_lt a) b h

/-- Writing bytes changes memory and nothing else. -/
theorem State.writeBytes_eq :
    ∀ (bs : List Byte) (s : State) (a : Word),
      s.writeBytes a bs = { s with mem := (s.writeBytes a bs).mem }
  | [], _, _ => rfl
  | b :: bs, s, a => by
    show (s.writeByte a b).writeBytes (a + 1) bs = _
    rw [State.writeBytes_eq bs]
    rfl

/-- A field that does not depend on memory is the same after writing bytes. -/
theorem State.writeBytes_field {α : Type} (f : State → α)
    (h : ∀ (s : State) (m : Memory), f { s with mem := m } = f s) (s : State) (a : Word)
    (bs : List Byte) : f (s.writeBytes a bs) = f s := by
  rw [State.writeBytes_eq]
  exact h ..

theorem State.writeBytes_inv :
    ∀ (bs : List Byte) {s : State} (a : Word), s.Inv → (s.writeBytes a bs).Inv
  | [], _, _, h => h
  | b :: bs, _, a, h => State.writeBytes_inv bs (a + 1) (State.writeByte_inv a b h)

theorem word_add_one_add (a : Word) (k : Nat) :
    a + 1 + BitVec.ofNat 16 k = a + BitVec.ofNat 16 (k + 1) := by
  apply BitVec.eq_of_toNat_eq
  simp [BitVec.toNat_add]
  omega

/-- Written bytes leave every other byte alone. -/
theorem State.readByte_writeBytes_outside {p : Word} :
    ∀ (bs : List Byte) (s : State) (a : Word),
      (∀ k, k < bs.length → port (a + BitVec.ofNat 16 k) ≠ port p) →
      (s.writeBytes a bs).readByte p = s.readByte p
  | [], _, _, _ => rfl
  | b :: bs, s, a, h => by
    have h0 := h 0 (by simp)
    have hs : ∀ k, k < bs.length → port (a + 1 + BitVec.ofNat 16 k) ≠ port p := fun k hk => by
      rw [word_add_one_add]
      exact h (k + 1) (by simpa using hk)
    show ((s.writeByte a b).writeBytes (a + 1) bs).readByte p = _
    rw [State.readByte_writeBytes_outside bs _ _ hs]
    exact State.readByte_writeByte_ne s b (by simpa using Ne.symm h0)

/-- Written bytes read back, each at its own address, as long as they do not lap the memory. -/
theorem State.readByte_writeBytes_inside {k : Nat} :
    ∀ (bs : List Byte) {s : State} (a : Word) (h : k < bs.length), bs.length ≤ 4096 → s.Inv →
      (s.writeBytes a bs).readByte (a + BitVec.ofNat 16 k) = bs[k]
  | b :: bs, s, a, h, hle, hs => by
    rw [List.length_cons] at hle
    show ((s.writeByte a b).writeBytes (a + 1) bs).readByte _ = _
    cases k with
    | zero =>
      rw [State.readByte_writeBytes_outside bs]
      · simpa using State.readByte_writeByte_self a b hs
      · intro k hk
        rw [word_add_one_add, port_add, port_add]
        omega
    | succ k =>
      rw [← word_add_one_add]
      exact State.readByte_writeBytes_inside bs (a + 1) (by simpa using h) (by omega)
        (State.writeByte_inv a b hs)

/-! ### The call stack -/

/-- A push succeeds below 16 entries, writes the one entry at `sp` and counts it (R30). -/
theorem State.push_of_lt {s : State} (w : Word) (h : s.sp.val < 16) :
    s.push w = some { s with stack := s.stack.set s.sp.val w h, sp := ⟨s.sp.val + 1, by omega⟩ } :=
  dif_pos h

theorem State.push_eq_none {s : State} {w : Word} : s.push w = none ↔ s.sp = 16 := by
  unfold State.push
  split
  · next h => exact ⟨fun e => (by cases e), fun e => by rw [e] at h; exact absurd h (by decide)⟩
  · next h => exact ⟨fun _ => Fin.ext (by have := s.sp.isLt; show _ = 16; omega), fun _ => rfl⟩

/-- A pop succeeds above 0 entries, answers the last one and leaves it where it is (R30, D29). -/
theorem State.pop_of_pos {s : State} (h : 0 < s.sp.val) :
    s.pop = some (s.stack[s.sp.val - 1]'(by omega), { s with sp := ⟨s.sp.val - 1, by omega⟩ }) :=
  dif_pos h

theorem State.pop_eq_none {s : State} : s.pop = none ↔ s.sp = 0 := by
  unfold State.pop
  split
  · next h => exact ⟨fun e => (by cases e), fun e => by rw [e] at h; exact absurd h (by decide)⟩
  · next h => exact ⟨fun _ => Fin.ext (by show _ = 0; omega), fun _ => rfl⟩

/-- Everything a push that succeeds does. -/
theorem State.push_eq_some {s t : State} {w : Word} (h : s.push w = some t) :
    ∃ hl : s.sp.val < 16,
      t = { s with stack := s.stack.set s.sp.val w hl, sp := ⟨s.sp.val + 1, by omega⟩ } := by
  unfold State.push at h
  split at h
  · next hl => exact ⟨hl, by simpa [eq_comm] using h⟩
  · cases h

/-- Everything a pop that succeeds does. -/
theorem State.pop_eq_some {s t : State} {w : Word} (h : s.pop = some (w, t)) :
    ∃ hl : 0 < s.sp.val, w = s.stack[s.sp.val - 1]'(by omega) ∧
      t = { s with sp := ⟨s.sp.val - 1, by omega⟩ } := by
  unfold State.pop at h
  split at h
  · next hl =>
    simp at h
    exact ⟨hl, h.1.symm, h.2.symm⟩
  · cases h

/-! ### Operand forms -/

theorem address_toNat (nnn : BitVec 12) : (address nnn).toNat = nnn.toNat := by
  have := nnn.isLt
  simp only [address, BitVec.toNat_setWidth]
  omega

theorem widen_toNat (b : Byte) : (widen b).toNat = b.toNat := by
  have := b.isLt
  simp only [widen, BitVec.toNat_setWidth]
  omega

theorem keyOf_val (b : Byte) : (keyOf b).val = b.toNat % 16 := by simp [keyOf]

/-- The first `n` numbers are the numbers below `n`. -/
theorem mem_firstNumbers {n : Nat} {k : Fin 16} : k ∈ firstNumbers n ↔ k.val < n := by
  unfold firstNumbers
  constructor
  · intro h
    obtain ⟨i, hi, rfl⟩ := List.mem_take_iff_getElem.1 h
    simp at hi ⊢
    omega
  · intro h
    exact List.mem_take_iff_getElem.2 ⟨k.val, by simp; omega, by simp⟩

theorem mem_regsUpTo {x r : Reg} : r ∈ regsUpTo x ↔ r ≤ x := by
  rw [regsUpTo, mem_firstNumbers, Fin.le_def, Nat.lt_succ_iff]

theorem length_regsUpTo (x : Reg) : (regsUpTo x).length = x.val + 1 := by
  simp [regsUpTo, firstNumbers]

theorem getElem_regsUpTo {x : Reg} {k : Nat} (h : k < (regsUpTo x).length) :
    ((regsUpTo x)[k]).val = k := by
  simp [regsUpTo, firstNumbers]

/-- Loading registers sets each listed one from memory and leaves the others. -/
theorem State.getV_loadRegs (s : State) (r : Reg) :
    ∀ (rs : List Reg) (t : State),
      (rs.foldl (fun t k => t.setV k (s.readByte (s.indexed k))) t).getV r =
        if r ∈ rs then s.readByte (s.indexed r) else t.getV r
  | [], _ => by simp
  | k :: rs, t => by
    rw [List.foldl_cons, State.getV_loadRegs s r rs, State.getV_setV]
    by_cases h : r ∈ rs <;> by_cases h' : r = k <;> simp [h, h']

/-- Loading registers changes general registers and nothing else. -/
theorem State.loadRegs_eq (s : State) :
    ∀ (rs : List Reg) (t : State),
      rs.foldl (fun t k => t.setV k (s.readByte (s.indexed k))) t =
        { t with v := (rs.foldl (fun t k => t.setV k (s.readByte (s.indexed k))) t).v }
  | [], _ => rfl
  | k :: rs, t => by
    rw [List.foldl_cons, State.loadRegs_eq s rs]
    rfl

/-- A field that does not depend on the general registers is the same after loading some. -/
theorem State.loadRegs_field {α : Type} (f : State → α)
    (h : ∀ (s : State) (v : Vector Byte 16), f { s with v := v } = f s) (s : State)
    (rs : List Reg) : f (s.loadRegs rs) = f s := by
  unfold State.loadRegs
  rw [State.loadRegs_eq]
  exact h ..

/-- The key FX0A reports is one of the pressed keys (R223: "constrained only by `KeyPick(P) in P`"). -/
theorem keyPick_mem (p : Key) (ps : List Key) : keyPick p ps ∈ p :: ps := by
  show (if Config.keyChoice (p :: ps) ∈ p :: ps then Config.keyChoice (p :: ps) else p) ∈ _
  split
  · assumption
  · exact List.mem_cons_self

theorem State.mem_pressed {s : State} {k : Key} : k ∈ s.pressed ↔ s.key[k] = true := by
  simp [State.pressed]

theorem State.pressed_eq_nil {s : State} : s.pressed = [] ↔ ∀ k : Key, s.key[k] = false := by
  simp [State.pressed]

/-! ### The stages of a step -/

theorem countDown_toNat (b : Byte) : (countDown b).toNat = b.toNat - 1 := by
  unfold countDown
  split
  · next h => rw [h]; rfl
  · next h =>
    have hb : b.toNat ≠ 0 := fun e => h (BitVec.eq_of_toNat_eq e)
    have := b.isLt
    rw [BitVec.toNat_sub, show BitVec.toNat (1 : Byte) = 1 from rfl]
    omega

theorem retire_eq_next {r : Result} {t : State} :
    retire r = .next t ↔
      ∃ u, r = .next u ∧ t = if u.report = .keyWait then u else u.tick := by
  cases r <;> simp [retire, eq_comm]

theorem retire_eq_fault {r : Result} {f : Fault} : retire r = .fault f ↔ r = .fault f := by
  cases r <;> simp [retire]

/-- Everything a step that goes on can have done: the word was unknown, or the decoded instruction ran and,
unless it waits for a key, the tick followed (R120). -/
theorem step_eq_next {s t : State} (h : step s = .next t) :
    s.ready = true ∧
      ((∃ e, decode s.fetch = .error e ∧ t = { s with report := .unknownOpcode s.fetch }) ∨
        ∃ i u, decode s.fetch = .ok i ∧ exec i s = .next u ∧
          t = if u.report = .keyWait then u else u.tick) := by
  unfold step at h
  split at h
  · next hr =>
    refine ⟨hr, ?_⟩
    split at h
    · next i hi =>
      obtain ⟨u, hu, ht⟩ := retire_eq_next.1 h
      exact .inr ⟨i, u, hi, hu, ht⟩
    · next e he => exact .inl ⟨e, he, by simpa [unknownWord, eq_comm] using h⟩
  · cases h

end Sys2Proof.Machine
end

