-- ==== Sys2Proof/Laws/PerInstr.lean ====
section
/-!
SUPPORT. Per-instruction families: `Encoding` says that the word the encoder makes of an instruction is
accepted by that instruction's own row of the opcode map of spec/30_encoding.md R96.
-/

namespace Sys2Proof.Laws

/-- The instruction's word, ANDed with its row's mask, is its row's match. -/
def Encoding.Statement (i : Instr) : Prop :=
  ∃ r, opcodeMap[i.rowIndex]? = some r ∧ r.accepts (encode i) = true

/-! ### The bits of a word in each format (R92) -/

theorem getLsbD_wordNNN (f : BitVec 4) (nnn : BitVec 12) (k : Nat) :
    (wordNNN f nnn).getLsbD k = if k < 12 then nnn.getLsbD k else f.getLsbD (k - 12) :=
  BitVec.getLsbD_append

theorem getLsbD_wordXNN (f : BitVec 4) (x : Reg) (nn : Byte) (k : Nat) :
    (wordXNN f x nn).getLsbD k =
      if k < 8 then nn.getLsbD k
      else if k - 8 < 4 then (regBits x).getLsbD (k - 8) else f.getLsbD (k - 8 - 4) := by
  rw [← BitVec.getLsbD_append]
  exact BitVec.getLsbD_append

theorem getLsbD_wordXYN (f : BitVec 4) (x y : Reg) (n : BitVec 4) (k : Nat) :
    (wordXYN f x y n).getLsbD k =
      if k < 8 then (if k < 4 then n.getLsbD k else (regBits y).getLsbD (k - 4))
      else if k - 8 < 4 then (regBits x).getLsbD (k - 8) else f.getLsbD (k - 8 - 4) := by
  rw [← BitVec.getLsbD_append, ← BitVec.getLsbD_append]
  exact BitVec.getLsbD_append

/-! ### Each format under its masks (R96) -/

theorem maskNNN (f : BitVec 4) (nnn : BitVec 12) :
    (wordNNN f nnn &&& 0xF000) = wordNNN f 0 := by
  apply BitVec.eq_of_getLsbD_eq
  intro k hk
  rw [BitVec.getLsbD_and, getLsbD_wordNNN, getLsbD_wordNNN]
  interval_cases k <;> simp

theorem maskXNN (f : BitVec 4) (x : Reg) (nn : Byte) :
    (wordXNN f x nn &&& 0xF000) = wordXNN f 0 0 := by
  apply BitVec.eq_of_getLsbD_eq
  intro k hk
  rw [BitVec.getLsbD_and, getLsbD_wordXNN, getLsbD_wordXNN]
  interval_cases k <;> simp [regBits]

theorem maskXNN_low (f : BitVec 4) (x : Reg) (nn : Byte) :
    (wordXNN f x nn &&& 0xF0FF) = wordXNN f 0 nn := by
  apply BitVec.eq_of_getLsbD_eq
  intro k hk
  rw [BitVec.getLsbD_and, getLsbD_wordXNN, getLsbD_wordXNN]
  interval_cases k <;> simp [regBits]

theorem maskXYN (f : BitVec 4) (x y : Reg) (n : BitVec 4) :
    (wordXYN f x y n &&& 0xF000) = wordXYN f 0 0 0 := by
  apply BitVec.eq_of_getLsbD_eq
  intro k hk
  rw [BitVec.getLsbD_and, getLsbD_wordXYN, getLsbD_wordXYN]
  interval_cases k <;> simp [regBits]

theorem maskXY (f : BitVec 4) (x y : Reg) (n : BitVec 4) :
    (wordXYN f x y n &&& 0xF00F) = wordXYN f 0 0 n := by
  apply BitVec.eq_of_getLsbD_eq
  intro k hk
  rw [BitVec.getLsbD_and, getLsbD_wordXYN, getLsbD_wordXYN]
  interval_cases k <;> simp [regBits]

/-- A row accepts a word as soon as the masked word is the row's match. -/
theorem Encoding.of_row {i : Instr} (r : OpcodeRow) (h : opcodeMap[i.rowIndex]? = some r)
    (hw : (encode i &&& r.mask) = r.pattern) : Encoding.Statement i :=
  ⟨r, h, by simp [OpcodeRow.accepts, hw]⟩

theorem Encoding.op00E0 : Encoding.Statement .op00E0 :=
  Encoding.of_row ⟨"00E0", 0x00E0, 0xFFFF⟩ rfl rfl
theorem Encoding.op00EE : Encoding.Statement .op00EE :=
  Encoding.of_row ⟨"00EE", 0x00EE, 0xFFFF⟩ rfl rfl
theorem Encoding.op1NNN (nnn : BitVec 12) : Encoding.Statement (.op1NNN nnn) :=
  Encoding.of_row ⟨"1NNN", 0x1000, 0xF000⟩ rfl (maskNNN ..)
theorem Encoding.op2NNN (nnn : BitVec 12) : Encoding.Statement (.op2NNN nnn) :=
  Encoding.of_row ⟨"2NNN", 0x2000, 0xF000⟩ rfl (maskNNN ..)
theorem Encoding.op3XNN (x : Reg) (nn : Byte) : Encoding.Statement (.op3XNN x nn) :=
  Encoding.of_row ⟨"3XNN", 0x3000, 0xF000⟩ rfl (maskXNN ..)
theorem Encoding.op4XNN (x : Reg) (nn : Byte) : Encoding.Statement (.op4XNN x nn) :=
  Encoding.of_row ⟨"4XNN", 0x4000, 0xF000⟩ rfl (maskXNN ..)
theorem Encoding.op5XY0 (x y : Reg) : Encoding.Statement (.op5XY0 x y) :=
  Encoding.of_row ⟨"5XY0", 0x5000, 0xF00F⟩ rfl (maskXY ..)
theorem Encoding.op6XNN (x : Reg) (nn : Byte) : Encoding.Statement (.op6XNN x nn) :=
  Encoding.of_row ⟨"6XNN", 0x6000, 0xF000⟩ rfl (maskXNN ..)
theorem Encoding.op7XNN (x : Reg) (nn : Byte) : Encoding.Statement (.op7XNN x nn) :=
  Encoding.of_row ⟨"7XNN", 0x7000, 0xF000⟩ rfl (maskXNN ..)
theorem Encoding.op8XY0 (x y : Reg) : Encoding.Statement (.op8XY0 x y) :=
  Encoding.of_row ⟨"8XY0", 0x8000, 0xF00F⟩ rfl (maskXY ..)
theorem Encoding.op8XY1 (x y : Reg) : Encoding.Statement (.op8XY1 x y) :=
  Encoding.of_row ⟨"8XY1", 0x8001, 0xF00F⟩ rfl (maskXY ..)
theorem Encoding.op8XY2 (x y : Reg) : Encoding.Statement (.op8XY2 x y) :=
  Encoding.of_row ⟨"8XY2", 0x8002, 0xF00F⟩ rfl (maskXY ..)
theorem Encoding.op8XY3 (x y : Reg) : Encoding.Statement (.op8XY3 x y) :=
  Encoding.of_row ⟨"8XY3", 0x8003, 0xF00F⟩ rfl (maskXY ..)
theorem Encoding.op8XY4 (x y : Reg) : Encoding.Statement (.op8XY4 x y) :=
  Encoding.of_row ⟨"8XY4", 0x8004, 0xF00F⟩ rfl (maskXY ..)
theorem Encoding.op8XY5 (x y : Reg) : Encoding.Statement (.op8XY5 x y) :=
  Encoding.of_row ⟨"8XY5", 0x8005, 0xF00F⟩ rfl (maskXY ..)
theorem Encoding.op8XY6 (x y : Reg) : Encoding.Statement (.op8XY6 x y) :=
  Encoding.of_row ⟨"8XY6", 0x8006, 0xF00F⟩ rfl (maskXY ..)
theorem Encoding.op8XY7 (x y : Reg) : Encoding.Statement (.op8XY7 x y) :=
  Encoding.of_row ⟨"8XY7", 0x8007, 0xF00F⟩ rfl (maskXY ..)
theorem Encoding.op8XYE (x y : Reg) : Encoding.Statement (.op8XYE x y) :=
  Encoding.of_row ⟨"8XYE", 0x800E, 0xF00F⟩ rfl (maskXY ..)
theorem Encoding.op9XY0 (x y : Reg) : Encoding.Statement (.op9XY0 x y) :=
  Encoding.of_row ⟨"9XY0", 0x9000, 0xF00F⟩ rfl (maskXY ..)
theorem Encoding.opANNN (nnn : BitVec 12) : Encoding.Statement (.opANNN nnn) :=
  Encoding.of_row ⟨"ANNN", 0xA000, 0xF000⟩ rfl (maskNNN ..)
theorem Encoding.opBNNN (nnn : BitVec 12) : Encoding.Statement (.opBNNN nnn) :=
  Encoding.of_row ⟨"BNNN", 0xB000, 0xF000⟩ rfl (maskNNN ..)
theorem Encoding.opCXNN (x : Reg) (nn : Byte) : Encoding.Statement (.opCXNN x nn) :=
  Encoding.of_row ⟨"CXNN", 0xC000, 0xF000⟩ rfl (maskXNN ..)
theorem Encoding.opDXYN (x y : Reg) (n : BitVec 4) : Encoding.Statement (.opDXYN x y n) :=
  Encoding.of_row ⟨"DXYN", 0xD000, 0xF000⟩ rfl (maskXYN ..)
theorem Encoding.opEX9E (x : Reg) : Encoding.Statement (.opEX9E x) :=
  Encoding.of_row ⟨"EX9E", 0xE09E, 0xF0FF⟩ rfl (maskXNN_low ..)
theorem Encoding.opEXA1 (x : Reg) : Encoding.Statement (.opEXA1 x) :=
  Encoding.of_row ⟨"EXA1", 0xE0A1, 0xF0FF⟩ rfl (maskXNN_low ..)
theorem Encoding.opFX07 (x : Reg) : Encoding.Statement (.opFX07 x) :=
  Encoding.of_row ⟨"FX07", 0xF007, 0xF0FF⟩ rfl (maskXNN_low ..)
theorem Encoding.opFX0A (x : Reg) : Encoding.Statement (.opFX0A x) :=
  Encoding.of_row ⟨"FX0A", 0xF00A, 0xF0FF⟩ rfl (maskXNN_low ..)
theorem Encoding.opFX15 (x : Reg) : Encoding.Statement (.opFX15 x) :=
  Encoding.of_row ⟨"FX15", 0xF015, 0xF0FF⟩ rfl (maskXNN_low ..)
theorem Encoding.opFX18 (x : Reg) : Encoding.Statement (.opFX18 x) :=
  Encoding.of_row ⟨"FX18", 0xF018, 0xF0FF⟩ rfl (maskXNN_low ..)
theorem Encoding.opFX1E (x : Reg) : Encoding.Statement (.opFX1E x) :=
  Encoding.of_row ⟨"FX1E", 0xF01E, 0xF0FF⟩ rfl (maskXNN_low ..)
theorem Encoding.opFX29 (x : Reg) : Encoding.Statement (.opFX29 x) :=
  Encoding.of_row ⟨"FX29", 0xF029, 0xF0FF⟩ rfl (maskXNN_low ..)
theorem Encoding.opFX33 (x : Reg) : Encoding.Statement (.opFX33 x) :=
  Encoding.of_row ⟨"FX33", 0xF033, 0xF0FF⟩ rfl (maskXNN_low ..)
theorem Encoding.opFX55 (x : Reg) : Encoding.Statement (.opFX55 x) :=
  Encoding.of_row ⟨"FX55", 0xF055, 0xF0FF⟩ rfl (maskXNN_low ..)
theorem Encoding.opFX65 (x : Reg) : Encoding.Statement (.opFX65 x) :=
  Encoding.of_row ⟨"FX65", 0xF065, 0xF0FF⟩ rfl (maskXNN_low ..)

end Sys2Proof.Laws
end

