-- ==== Sys2Proof/Laws/Screen.lean ====
section
/-!
SUPPORT. Laws of the screen: flipping one cell, plotting a list of cells, and the cells a sprite targets.
-/

namespace Sys2Proof.Machine

theorem Screen.cell_flip_self (f : Screen) (c : Fin 2048) :
    Screen.cell (Screen.flip f c) c = !Screen.cell f c := by
  have : c.val % 64 < 64 := by omega
  simp [Screen.cell, Screen.flip, this]

theorem Screen.cell_flip_ne (f : Screen) {c d : Fin 2048} (h : d ≠ c) :
    Screen.cell (Screen.flip f c) d = Screen.cell f d := by
  have hv : d.val ≠ c.val := fun e => h (Fin.ext e)
  unfold Screen.cell Screen.flip
  rw [Vector.getElem_set]
  split
  · next e =>
    have : c.val % 64 ≠ d.val % 64 := by omega
    simp [BitVec.getLsbD_xor, BitVec.getLsbD_twoPow, this, e]
  · rfl

/-- Two screens with the same cells are equal. -/
theorem Screen.ext_cell {f g : Screen} (h : ∀ c, Screen.cell f c = Screen.cell g c) : f = g := by
  apply Vector.ext
  intro y hy
  apply BitVec.eq_of_getLsbD_eq
  intro x hx
  have := h ⟨y * 64 + x, by omega⟩
  simpa [Screen.cell, show (y * 64 + x) / 64 = y by omega, show (y * 64 + x) % 64 = x by omega]
    using this

/-- Plotting a list of cells flips each cell as often as it is listed. -/
theorem cell_foldl_plot (d : Fin 2048) :
    ∀ (L : List (Fin 2048)) (p : Screen × Bool),
      Screen.cell (L.foldl plot p).1 d = (Screen.cell p.1 d ^^ decide (L.count d % 2 = 1))
  | [], _ => by simp
  | c :: L, p => by
    rw [List.foldl_cons, cell_foldl_plot d L, List.count_cons]
    by_cases h : d = c
    · subst h
      have hcell : Screen.cell (plot p d).1 d = !Screen.cell p.1 d := Screen.cell_flip_self ..
      rw [hcell]
      rcases Nat.mod_two_eq_zero_or_one (L.count d) with h0 | h0
      · simp [h0, Nat.add_mod]
      · simp [h0, Nat.add_mod]
    · have hcell : Screen.cell (plot p c).1 d = Screen.cell p.1 d := Screen.cell_flip_ne _ h
      rw [hcell]
      simp [Ne.symm h]

/-- Plotting distinct cells reports a collision exactly when some of them held 1 before. -/
theorem collision_foldl_plot :
    ∀ (L : List (Fin 2048)) (p : Screen × Bool), L.Nodup →
      (L.foldl plot p).2 = (p.2 || L.any (Screen.cell p.1))
  | [], _, _ => by simp
  | c :: L, p, h => by
    obtain ⟨hc, hL⟩ := List.nodup_cons.1 h
    rw [List.foldl_cons, collision_foldl_plot L _ hL, List.any_cons, ← Bool.or_assoc]
    congr 1
    apply Bool.eq_iff_iff.2
    rw [List.any_eq_true, List.any_eq_true]
    have : ∀ d ∈ L, Screen.cell (plot p c).1 d = Screen.cell p.1 d := fun d hd =>
      Screen.cell_flip_ne _ fun e => hc (e ▸ hd)
    exact ⟨fun ⟨d, hd, e⟩ => ⟨d, hd, this d hd ▸ e⟩, fun ⟨d, hd, e⟩ => ⟨d, hd, (this d hd).symm ▸ e⟩⟩

theorem State.mem_rowCells {s : State} {vx vy : Byte} {row : Fin 16} {c : Fin 2048} :
    c ∈ s.rowCells vx vy row ↔ ∃ col, s.spriteBit row col = true ∧ spriteCell vx vy row col = c := by
  simp [State.rowCells]

/-- The cells a draw plots are those that set sprite bits target. -/
theorem State.mem_spriteCells {s : State} {vx vy : Byte} {n : BitVec 4} {c : Fin 2048} :
    c ∈ s.spriteCells vx vy n ↔ s.SpriteTargets vx vy n c := by
  simp only [State.spriteCells, List.mem_flatMap, mem_firstNumbers, State.mem_rowCells,
    State.SpriteTargets]
  exact ⟨fun ⟨row, hn, col, hb, hc⟩ => ⟨row, col, hn, hb, hc⟩,
    fun ⟨row, col, hn, hb, hc⟩ => ⟨row, hn, col, hb, hc⟩⟩

end Sys2Proof.Machine
end

