-- ==== Sys2Proof/Tests/Slice0.lean ====
section
/-!
SUPPORT. Tests of one step each, with expected results from spec/95_test_vectors.md (the section is named
before each group), and a witness for every statement that has hypotheses. The model was also held against
all 161 one-step vectors of sections 2.3 to 2.9 while it was written.
-/

namespace Sys2Proof.Tests

open Sys2Proof Sys2Proof.Machine

/-! ### Helpers -/

/-- The next state of a step, if there is one. -/
def nextOf : Result → Option State
  | .next t => some t
  | .fault _ => none
  | .refused _ => none

/-- The fault of a step, if there is one. -/
def faultOf : Result → Option Fault
  | .next _ => none
  | .fault f => some f
  | .refused _ => none

theorem exists_next {r : Result} (h : (nextOf r).isSome = true) : ∃ t, r = .next t := by
  cases r with
  | next t => exact ⟨t, rfl⟩
  | fault _ => cases h
  | refused _ => cases h

/-- The state the spec's vectors start from: after reset with an empty ROM, the changed flag acknowledged. -/
def base : State := State.reset.ackChanged

/-- `s` with the word `w` at `pc`, as the vectors place it. -/
def place (pc w : Word) (s : State) : State := ({ s with pc := pc } : State).withFetchWord 16 w.toNat

/-- One step of the word `w` at 0x0200, and what `f` sees of the state it leaves. -/
def run {α : Type} (w : Word) (s : State) (f : State → α) : Option α :=
  (nextOf (step (place 0x0200 w s))).map f

/-- `s` with I at 0x0300 and the bytes `bs` there. -/
def withSprite (bs : List Byte) (s : State) : State := ({ s with index := 0x0300 } : State).writeBytes 0x0300 bs

/-! ### Ill-formed words (section 2.2, 2.9): one of each kind that is refused -/

theorem test_ill_formed_family0 :
    wellFormed 0x0000 = false ∧ wellFormed 0x00E1 = false ∧ wellFormed 0x01E0 = false ∧
      wellFormed 0x0FFF = false := by decide
theorem test_ill_formed_family5 : wellFormed 0x5CD1 = false ∧ wellFormed 0x500F = false := by decide
theorem test_ill_formed_family8 : wellFormed 0x8AB8 = false ∧ wellFormed 0x8ABF = false := by decide
theorem test_ill_formed_family9 : wellFormed 0x9EF1 = false ∧ wellFormed 0x9AB3 = false := by decide
theorem test_ill_formed_familyE : wellFormed 0xE59F = false ∧ wellFormed 0xE000 = false := by decide
theorem test_ill_formed_familyF : wellFormed 0xF600 = false ∧ wellFormed 0xF675 = false := by decide
theorem test_well_formed_each_row : opcodeMap.all (fun r => wellFormed r.pattern) = true := by decide
/-- "34 is the number of distinct instructions": the opcode map's rows (R98). -/
theorem test_opcode_map_has_34_rows : opcodeMap.length = 34 := by decide

/-! ### Decoding a written-out word of every row (section 2.2) -/

theorem test_decode_00E0 : decode 0x00E0 = .ok .op00E0 := by decide
theorem test_decode_00EE : decode 0x00EE = .ok .op00EE := by decide
theorem test_decode_1NNN : decode 0x1ABC = .ok (.op1NNN 0xABC) := by decide
theorem test_decode_2NNN : decode 0x2F0E = .ok (.op2NNN 0xF0E) := by decide
theorem test_decode_3XNN : decode 0x3A7F = .ok (.op3XNN 0xA 0x7F) := by decide
theorem test_decode_4XNN : decode 0x4B00 = .ok (.op4XNN 0xB 0x00) := by decide
theorem test_decode_5XY0 : decode 0x5CD0 = .ok (.op5XY0 0xC 0xD) := by decide
theorem test_decode_6XNN : decode 0x6E12 = .ok (.op6XNN 0xE 0x12) := by decide
theorem test_decode_7XNN : decode 0x70FF = .ok (.op7XNN 0x0 0xFF) := by decide
theorem test_decode_8XY0 : decode 0x8120 = .ok (.op8XY0 0x1 0x2) := by decide
theorem test_decode_8XY1 : decode 0x8AB1 = .ok (.op8XY1 0xA 0xB) := by decide
theorem test_decode_8XY2 : decode 0x8AB2 = .ok (.op8XY2 0xA 0xB) := by decide
theorem test_decode_8XY3 : decode 0x8AB3 = .ok (.op8XY3 0xA 0xB) := by decide
theorem test_decode_8XY4 : decode 0x8AB4 = .ok (.op8XY4 0xA 0xB) := by decide
theorem test_decode_8XY5 : decode 0x8AB5 = .ok (.op8XY5 0xA 0xB) := by decide
theorem test_decode_8XY6 : decode 0x8AB6 = .ok (.op8XY6 0xA 0xB) := by decide
theorem test_decode_8XY7 : decode 0x8AB7 = .ok (.op8XY7 0xA 0xB) := by decide
theorem test_decode_8XYE : decode 0x8ABE = .ok (.op8XYE 0xA 0xB) := by decide
theorem test_decode_9XY0 : decode 0x9EF0 = .ok (.op9XY0 0xE 0xF) := by decide
theorem test_decode_ANNN : decode 0xA123 = .ok (.opANNN 0x123) := by decide
theorem test_decode_BNNN : decode 0xB002 = .ok (.opBNNN 0x002) := by decide
theorem test_decode_CXNN : decode 0xC30F = .ok (.opCXNN 0x3 0x0F) := by decide
theorem test_decode_DXYN : decode 0xD125 = .ok (.opDXYN 0x1 0x2 0x5) := by decide
theorem test_decode_EX9E : decode 0xE59E = .ok (.opEX9E 0x5) := by decide
theorem test_decode_EXA1 : decode 0xE5A1 = .ok (.opEXA1 0x5) := by decide
theorem test_decode_FX07 : decode 0xF607 = .ok (.opFX07 0x6) := by decide
theorem test_decode_FX0A : decode 0xF60A = .ok (.opFX0A 0x6) := by decide
theorem test_decode_FX15 : decode 0xF615 = .ok (.opFX15 0x6) := by decide
theorem test_decode_FX18 : decode 0xF618 = .ok (.opFX18 0x6) := by decide
theorem test_decode_FX1E : decode 0xF61E = .ok (.opFX1E 0x6) := by decide
theorem test_decode_FX29 : decode 0xF629 = .ok (.opFX29 0x6) := by decide
theorem test_decode_FX33 : decode 0xF633 = .ok (.opFX33 0x6) := by decide
theorem test_decode_FX55 : decode 0xF655 = .ok (.opFX55 0x6) := by decide
theorem test_decode_FX65 : decode 0xF665 = .ok (.opFX65 0x6) := by decide

theorem test_decode_bytes_high_first :
    decodeBytes [0x60, 0x05, 0x61] = .ok (.op6XNN 0x0 0x05, [0x61]) ∧
      decodeBytes [0x60] = .error .truncated := by decide
theorem test_decode_table_word :
    decodeTableWord 16 0x6E12 = some (.op6XNN 0xE 0x12) ∧ decodeTableWord 16 0x00E1 = none := by decide

/-! ### Control transfer and skips (sections 2.3, 2.4) -/

theorem test_return :
    run 0x00EE { base with sp := 2, stack := (base.stack.set 0 0x0204).set 1 0xFFFE }
      (fun t => (t.pc, t.sp, t.stack[1])) = some (0x0000, 1, 0xFFFE) := by decide
theorem test_return_underflow :
    faultOf (step (place 0x0200 0x00EE base)) = some .stackUnderflow := by decide
theorem test_jump_odd : run 0x1201 base (fun t => t.pc) = some 0x0201 := by decide
theorem test_call :
    (nextOf (step (place 0x0FFE 0x2ABC { base with sp := 15 }))).map
      (fun t => (t.pc, t.sp, t.stack[15])) = some (0x0ABC, 16, 0x0FFE) := by decide
theorem test_call_overflow :
    faultOf (step (place 0x0204 0x2210 { base with sp := 16 })) = some .stackOverflow := by decide
theorem test_jump_offset_not_masked :
    run 0xBFFF (base.setV 0 0xFF) (fun t => t.pc) = some 0x10FE := by decide
theorem test_skip_3XNN :
    run 0x3F01 (base.setV 15 0x01) (fun t => t.pc) = some 0x0204 ∧
      run 0x3100 (base.setV 1 0x04) (fun t => t.pc) = some 0x0202 := by decide
theorem test_skip_wraps :
    (nextOf (step (place 0xFFFE 0x3000 base))).map (fun t => t.pc) = some 0x0002 := by decide
theorem test_skip_4XNN :
    run 0x4210 (base.setV 2 0x10) (fun t => t.pc) = some 0x0202 ∧
      run 0x4211 (base.setV 2 0x10) (fun t => t.pc) = some 0x0204 := by decide
theorem test_skip_5XY0 :
    run 0x5340 ((base.setV 3 0x7F).setV 4 0x7F) (fun t => t.pc) = some 0x0204 ∧
      run 0x5340 ((base.setV 3 0x7F).setV 4 0x7E) (fun t => t.pc) = some 0x0202 := by decide
theorem test_skip_9XY0 :
    run 0x9340 ((base.setV 3 0x01).setV 4 0x02) (fun t => t.pc) = some 0x0204 ∧
      run 0x9AA0 (base.setV 10 0x09) (fun t => t.pc) = some 0x0202 := by decide

/-! ### Arithmetic (section 2.5) -/

theorem test_load_immediate : run 0x6FAB base (fun t => t.getV 15) = some 0xAB := by decide
theorem test_add_immediate :
    run 0x7002 ((base.setV 0 0xFF).setV 15 0x07) (fun t => (t.getV 0, t.getV 15)) =
      some (0x01, 0x07) := by decide
theorem test_move : run 0x8F10 (base.setV 1 0x2A) (fun t => t.getV 15) = some 0x2A := by decide
theorem test_or :
    run 0x8011 (((base.setV 0 0xF0).setV 1 0x0F).setV 15 1) (fun t => (t.getV 0, t.getV 15)) =
      some (0xFF, 1) := by decide
theorem test_and :
    run 0x8012 (((base.setV 0 0xF3).setV 1 0x3C).setV 15 1) (fun t => (t.getV 0, t.getV 15)) =
      some (0x30, 1) := by decide
theorem test_xor :
    run 0x8013 (((base.setV 0 0xFF).setV 1 0x0F).setV 15 1) (fun t => (t.getV 0, t.getV 15)) =
      some (0xF0, 1) := by decide
theorem test_add_no_carry_at_255 :
    run 0x8014 (base.setV 0 0xFF) (fun t => (t.getV 0, t.getV 15)) = some (0xFF, 0) := by decide
theorem test_add_into_VF :
    run 0x8F14 ((base.setV 15 0xF0).setV 1 0x20) (fun t => (t.getV 15, t.getV 1)) =
      some (1, 0x20) := by decide
theorem test_sub_borrow :
    run 0x8015 (((base.setV 0 0x03).setV 1 0x05).setV 15 1) (fun t => (t.getV 0, t.getV 15)) =
      some (0xFE, 0) := by decide
theorem test_sub_equal :
    run 0x8015 ((base.setV 0 0x07).setV 1 0x07) (fun t => (t.getV 0, t.getV 15)) =
      some (0, 1) := by decide
theorem test_shift_right_ignores_Y :
    run 0x8236 (((base.setV 2 0x80).setV 3 0xFF).setV 15 1) (fun t => (t.getV 2, t.getV 15)) =
      some (0x40, 0) := by decide
theorem test_shift_right_VF : run 0x8F06 (base.setV 15 0x03) (fun t => t.getV 15) = some 1 := by decide
theorem test_reverse_sub :
    run 0x8017 ((base.setV 0 0x05).setV 1 0x03) (fun t => (t.getV 0, t.getV 15)) =
      some (0xFE, 1) := by decide
theorem test_reverse_sub_equal :
    run 0x8017 (((base.setV 0 0x09).setV 1 0x09).setV 15 1) (fun t => (t.getV 0, t.getV 15)) =
      some (0, 0) := by decide
theorem test_shift_left :
    run 0x820E ((base.setV 2 0x41).setV 15 1) (fun t => (t.getV 2, t.getV 15)) =
      some (0x82, 0) := by decide
theorem test_shift_left_VF : run 0x8F0E (base.setV 15 0x80) (fun t => t.getV 15) = some 1 := by decide
/-- "mask 0 gives 0 for every rnd". -/
theorem test_random_mask_zero :
    (nextOf (exec (.opCXNN 0 0) (base.setV 0 0x55))).map (fun t => (t.getV 0, t.free)) =
      some (0, 1) := by
  simp [nextOf, exec, execCXNN]
  rfl

/-! ### Index register and memory (section 2.6) -/

theorem test_load_index : run 0xAFFF { base with index := 0x1234 } (fun t => t.index) = some 0x0FFF := by
  decide
theorem test_add_index :
    run 0xF11E (({ base with index := 0x0FFF } : State).setV 1 0x01) (fun t => (t.index, t.getV 15)) =
      some (0x1000, 1) := by decide
theorem test_add_index_wraps :
    run 0xF11E (({ base with index := 0xFFFF } : State).setV 1 0x01) (fun t => (t.index, t.getV 15)) =
      some (0x0000, 0) := by decide
theorem test_glyph_not_masked : run 0xF029 (base.setV 0 0xFF) (fun t => t.index) = some 0x04FB := by
  decide
theorem test_decimal :
    run 0xF033 (({ base with index := 0x0300 } : State).setV 0 0xFE) (fun t => t.mem.take 4) =
      some [(0x200, 0xF0), (0x201, 0x33), (0x300, 0x02), (0x301, 0x05)] := by decide
theorem test_decimal_wraps :
    run 0xF033 (({ base with index := 0x0FFF } : State).setV 0 0xFF)
      (fun t => (t.readByte 0xFFF, t.readByte 0x000, t.readByte 0x001)) =
      some (0x02, 0x05, 0x05) := by decide
theorem test_store_wraps :
    run 0xF255
      (({ base with index := 0x0FFE, v := #v[1, 2, 3, 4, 0, 0, 0, 0, 0, 0, 0, 0, 0, 0, 0, 0] } : State))
      (fun t => (t.index, t.readByte 0xFFE, t.readByte 0xFFF, t.readByte 0x000, t.readByte 0x001)) =
      some (0x1001, 1, 2, 3, 0x90) := by decide
theorem test_load_reads_wrapped_font :
    run 0xF165 (({ base with index := 0x0FFF } : State).writeByte 0xFFF 0x77)
      (fun t => (t.index, t.getV 0, t.getV 1, t.getV 2)) = some (0x1001, 0x77, 0xF0, 0) := by decide

/-! ### Display (section 2.7) -/

theorem test_clear :
    run 0x00E0 { base with fb := Screen.flip (Screen.flip base.fb 100) 2047 }
      (fun t => (t.fb == base.fb, t.fbChanged)) = some (true, true) := by decide
/-- A sprite at x = 60: its columns 4 to 7 go to x = 4 to 7, not 0 to 3 (D17). -/
theorem test_draw_edge :
    run 0xD011 ((withSprite [0xFF] base).setV 0 0x3C) (fun t => (t.fb[0], t.getV 15, t.fbChanged)) =
      some (0xF0000000000000F0, 0, true) := by decide
/-- Two cells set, two erased: cells 0 and 3 stay, VF is 1. -/
theorem test_draw_collision :
    run 0xD011 (withSprite [0xF0] { base with fb := base.fb.set 0 0x6 })
      (fun t => (t.fb[0], t.getV 15, t.fbChanged)) = some (0x9, 1, true) := by decide

/-! ### Keys and timers (section 2.8) -/

theorem test_key_skip_low_nibble :
    run 0xE09E ((base.setV 0 0x1A).writeKey 10 true) (fun t => t.pc) = some 0x0204 ∧
      run 0xE09E (base.setV 0 0x05) (fun t => t.pc) = some 0x0202 := by decide
theorem test_key_skip_not_pressed :
    run 0xE0A1 ((base.setV 0 0xF5).writeKey 5 true) (fun t => t.pc) = some 0x0202 ∧
      run 0xE0A1 (base.setV 0 0x05) (fun t => t.pc) = some 0x0204 := by decide
theorem test_key_wait :
    nextOf (step (place 0x0206 0xF20A { base with dt := 5, st := 1 })) =
      some { place 0x0206 0xF20A { base with dt := 5, st := 1 } with report := .keyWait } := by decide
/-- With only key 7 pressed, whatever key choice the configuration makes, V2 becomes 7. -/
theorem test_key_read :
    (nextOf (exec (.opFX0A 2) (base.writeKey 7 true))).map (fun t => (t.getV 2, t.pc)) =
      some (0x07, 0x0202) := by
  have hp : (base.writeKey 7 true).pressed = [7] := by decide
  have hk : keyPick 7 [] = 7 := by simpa using keyPick_mem 7 []
  simp [nextOf, exec, execFX0A, hp, hk]
  decide
theorem test_read_delay :
    run 0xF107 { base with dt := 2 } (fun t => (t.getV 1, t.dt)) = some (2, 1) := by decide
theorem test_set_delay : run 0xF015 (base.setV 0 0x03) (fun t => t.dt) = some 2 := by decide
theorem test_set_sound :
    run 0xF018 (base.setV 0 0x01) (fun t => (t.st, t.report)) = some (0, .ok true) := by decide
theorem test_set_sound_zero :
    run 0xF018 { base with st := 5 } (fun t => (t.st, t.report)) = some (0, .ok false) := by decide
theorem test_tick :
    run 0x7000 { base with st := 1, dt := 0 } (fun t => (t.st, t.dt, t.report)) =
      some (0, 0, .ok true) := by decide

/-! ### Unknown words and reset (sections 2.1, 2.9) -/

theorem test_unknown :
    nextOf (step (place 0x0200 0x5121 { base with dt := 3, st := 1 })) =
      some { place 0x0200 0x5121 { base with dt := 3, st := 1 } with report := .unknownOpcode 0x5121 } := by
  decide
theorem test_step_from_reset :
    (nextOf (step (State.reset.withFetchWord 16 0x6005))).map (fun t => (t.getV 0, t.pc)) =
      some (0x05, 0x0202) := by decide
theorem test_reset_one_byte :
    resetRom [0x12] { base with dt := 9, sp := 3 } =
      .success { State.reset with mem := [(0x200, 0x12)] } := by decide

/-! ### Witnesses: states and operands that meet each statement's hypotheses -/

/-- One instruction of every constructor, first part. -/
def samples1 : List Instr :=
  [.op00E0, .op00EE, .op1NNN 0xABC, .op2NNN 0xABC, .op3XNN 1 0, .op4XNN 1 0, .op5XY0 1 2,
    .op6XNN 1 7, .op7XNN 1 7, .op8XY0 1 2, .op8XY1 1 2, .op8XY2 1 2, .op8XY3 1 2, .op8XY4 15 2,
    .op8XY5 1 15, .op8XY6 1 2, .op8XY7 1 2]

/-- One instruction of every constructor, second part. -/
def samples2 : List Instr :=
  [.op8XYE 1 2, .op9XY0 1 2, .opANNN 1, .opBNNN 1, .opCXNN 1 2, .opDXYN 1 2 3, .opEX9E 1,
    .opEXA1 1, .opFX07 1, .opFX0A 1, .opFX15 1, .opFX18 1, .opFX1E 1, .opFX29 1, .opFX33 1,
    .opFX55 1, .opFX65 1]

/-- One instruction of every constructor. -/
def samples : List Instr := samples1 ++ samples2

/-- A state from which every sample completes: one return address, no key pressed. -/
def busy : State := { base with sp := 1, index := 0x0300, dt := 2, st := 1 }

theorem samples_cover_the_opcode_map :
    samples.map Instr.rowIndex = List.range 34 := by decide

/-- Meets the hypothesis `exec i s = .next t` of PcAfterExecute, RegistersWrittenAsNamed,
FlagInstructionsLeaveABit, MemoryWrittenByStoresOnly, IndexAndTimersWrittenAsNamed and
StackWrittenByCallAndReturnOnly, for every constructor. -/
theorem wit_every_sample_completes : ∀ i ∈ samples, ∃ t, exec i busy = .next t := fun i hi =>
  exists_next ((List.all_eq_true.1 (by decide : (samples.all fun i => (nextOf (exec i busy)).isSome) = true)) i hi)

theorem wit_EncodeOfDecode :
    decode 0x5CD0 = .ok (.op5XY0 0xC 0xD) ∧ decode 0xFF65 = .ok (.opFX65 0xF) := by decide
theorem wit_DecodeFollowsOpcodeMap :
    decode 0xFF65 = .ok (.opFX65 0xF) ∧ opcodeMap[33]? = some ⟨"FX65", 0xF065, 0xF0FF⟩ ∧
      decode 0xFF66 = .error (.unknownOpcode 0xFF66) := by decide
theorem wit_StepRunsDecodedInstruction :
    (place 0x0FFF 0x6005 base).ready = true ∧
      decode (place 0x0FFF 0x6005 base).fetch = .ok (.op6XNN 0 5) := by decide
/-- StepRunsDecodedInstruction where the execute stage is a key wait, and where it is a fault. -/
theorem wit_StepRunsDecodedInstruction_other :
    (place 0x0200 0xF20A base).ready = true ∧ decode (place 0x0200 0xF20A base).fetch = .ok (.opFX0A 2) ∧
      (nextOf (exec (.opFX0A 2) (place 0x0200 0xF20A base))).map (·.report) = some .keyWait ∧
      (place 0x0200 0x00EE base).ready = true ∧ decode (place 0x0200 0x00EE base).fetch = .ok .op00EE ∧
      faultOf (exec .op00EE (place 0x0200 0x00EE base)) = some .stackUnderflow := by decide
/-- PcAfterExecute's arm of FX0A with a key pressed; `wit_every_sample_completes` has it with none. -/
theorem wit_PcAfterExecute_key :
    (base.writeKey 15 true).key[(15 : Key)] = true ∧ ∃ t, exec (.opFX0A 2) (base.writeKey 15 true) = .next t :=
  ⟨by decide, exists_next (by decide)⟩
/-- All hypotheses of CompletedStepTicksOnce, with ST = 1 and with ST = 0, and for FX0A with a key pressed. -/
theorem wit_CompletedStepTicksOnce :
    (∃ t, exec (.op6XNN 0 5) (place 0x0200 0x6005 busy) = .next t ∧ t.st = 1) ∧
      (∃ t, exec (.op6XNN 0 5) (place 0x0200 0x6005 base) = .next t ∧ t.st ≠ 1) ∧
      (place 0x0200 0x6005 busy).ready = true ∧
      decode (place 0x0200 0x6005 busy).fetch = .ok (.op6XNN 0 5) ∧
      (place 0x0200 0xF20A (base.writeKey 15 true)).key[(15 : Key)] = true :=
  ⟨⟨_, rfl, by decide⟩, ⟨_, rfl, by decide⟩, by decide⟩
theorem wit_UnknownWordChangesNothing :
    (place 0x0200 0x0000 base).ready = true ∧ ∀ i, decode (place 0x0200 0x0000 base).fetch ≠ .ok i := by
  have h : decode (place 0x0200 0x0000 base).fetch = .error (.unknownOpcode 0x0000) := by decide
  refine ⟨by decide, fun i hi => ?_⟩
  rw [h] at hi
  cases hi
theorem wit_StepRefusedExactlyWhenNotReady :
    State.powerOn.ready = false ∧ step State.powerOn = .refused .notReady := ⟨rfl, rfl⟩
/-- Both clauses of OnlyStackFaults, at the bounds; one entry away no fault. -/
theorem wit_OnlyStackFaults :
    faultOf (step (place 0x0200 0x2ABC { base with sp := 16 })) = some .stackOverflow ∧
      faultOf (step (place 0x0200 0x2ABC { base with sp := 15 })) = none ∧
      faultOf (step (place 0x0200 0x00EE { base with sp := 0 })) = some .stackUnderflow ∧
      faultOf (step (place 0x0200 0x00EE { base with sp := 1 })) = none := by decide
theorem wit_ReadyStepHasAnOutcome : State.reset.ready = true := rfl
/-- VFIsNeverReadImplicitly: an instruction that writes VF, one that does not, and one that faults; FX0A that
writes VF with one key pressed, which leaves nothing open, and with two; and CXNN, whose VX is open. -/
theorem wit_VFIsNeverReadImplicitly :
    regF ∉ sourceRegs (.op8XY4 1 2) ∧ regF ∈ writtenRegs (.op8XY4 1 2) ∧
      regF ∉ sourceRegs (.opFX55 14) ∧ regF ∉ writtenRegs (.opFX55 14) ∧
      regF ∉ sourceRegs .op00EE ∧ faultOf (exec .op00EE base) = some .stackUnderflow ∧
      regF ∉ sourceRegs (.opFX0A 15) ∧ openRegs (.opFX0A 15) (base.writeKey 7 true) = [] ∧
      openRegs (.opFX0A 15) ((base.writeKey 7 true).writeKey 9 true) = [15] ∧
      regF ∉ sourceRegs (.opCXNN 2 1) ∧ openRegs (.opCXNN 2 1) base = [2] := by decide
/-- Addresses FX55 and FX33 do not store to, on either side of those they do. -/
theorem wit_MemoryWrittenByStoresOnly :
    (storedAddresses (.opFX55 1) busy).map port = [0x300, 0x301] ∧
      (storedAddresses (.opFX33 1) busy).map port = [0x300, 0x301, 0x302] ∧
      port 0x02FF = 0x2FF ∧ port 0x0303 = 0x303 := by decide
theorem wit_RegistersWrittenAsNamed : (2 : Reg) ∉ writtenRegs (.opFX65 1) ∧ (15 : Reg) ∉ writtenRegs (.op8XY1 1 15) := by
  decide
theorem wit_ScreenWrittenByDisplayOnly :
    (∃ t, step (place 0x0200 0x00E0 base) = .next t) ∧ (∃ t, step (place 0x0200 0xD123 base) = .next t) ∧
      (∃ t, step (place 0x0200 0x6005 base) = .next t) ∧ ∃ t, step (place 0x0200 0x0000 base) = .next t :=
  ⟨exists_next (by decide), exists_next (by decide), exists_next (by decide), exists_next (by decide)⟩
theorem wit_StepsNeverWriteKeys : ∃ t, step (place 0x0200 0xE09E (base.writeKey 0 true)) = .next t :=
  exists_next (by decide)
theorem wit_StepKeepsCanonicalMemory :
    (place 0x0200 0xFF55 busy).Inv ∧ ∃ t, step (place 0x0200 0xFF55 busy) = .next t :=
  ⟨by decide, exists_next (by decide)⟩
theorem wit_CallPushesItsOwnAddress :
    ({ base with sp := 0 } : State).sp.val = (0 : Fin 16).val ∧
      ({ base with sp := 15 } : State).sp.val = (15 : Fin 16).val := by decide
theorem wit_ReturnGoesTwoPastTheCall :
    ({ base with sp := 1 } : State).sp.val = (0 : Fin 16).val + 1 ∧
      ({ base with sp := 16 } : State).sp.val = (15 : Fin 16).val + 1 := by decide
theorem wit_ReturnUndoesCall : ∃ t, exec (.op2NNN 0xABC) { base with sp := 15 } = .next t :=
  exists_next (by decide)
theorem wit_CallAndReturnFaultAtTheBounds :
    ({ base with sp := 16 } : State).sp = 16 ∧ ({ base with sp := 0 } : State).sp = 0 := by decide
theorem wit_Inv : busy.Inv ∧ (withSprite [1, 2, 3] busy).Inv ∧ (busy.writeByte 0x0000 0x00).Inv := by decide
/-- `x ≠ regF` and its opposite, in the flag statements. -/
theorem wit_flag_destinations : (14 : Reg) ≠ regF ∧ ¬(15 : Reg) ≠ regF := by decide
theorem wit_StoreThenLoadRestores :
    busy.Inv ∧ ∃ t, exec (.opFX55 15) busy = .next t ∧
      ({ t with index := busy.index } : State).mem = t.mem ∧
      ({ t with index := busy.index } : State).index = busy.index :=
  ⟨by decide, _, rfl, rfl, rfl⟩
/-- StoreSeenByNextFetch, FX55 with X = 1 on both bytes of the next word. -/
theorem wit_StoreSeenByNextFetch :
    let s := place 0x0200 0xF155 { base with index := 0x0202 }
    s.Inv ∧ decode s.fetch = .ok (.opFX55 1) ∧ (nextOf (step s)).map (·.pc) = some 0x0202 ∧
      port (s.indexed 0) = port 0x0202 ∧ port (s.indexed 1) = port (0x0202 + 1) := by decide
/-- FX55 with X = 0 on the low byte alone, at the top of memory: the high byte is at 0xFFF and is not stored,
the low byte wraps to 0x000. -/
theorem wit_StoreSeenByNextFetch_wrap :
    let s := place 0x0FFD 0xF055 { base with index := 0x1000 }
    s.Inv ∧ decode s.fetch = .ok (.opFX55 0) ∧ (nextOf (step s)).map (·.pc) = some 0x0FFF ∧
      (storedAddresses (.opFX55 0) s).map port = [0x000] ∧ port 0x0FFF = 0xFFF ∧
      port (s.indexed 0) = port (0x0FFF + 1) := by decide
/-- FX33 whose last digit is the high byte of the next word; its low byte is not stored. -/
theorem wit_StoreSeenByNextFetch_digit :
    let s := place 0x0200 0xF033 { base with index := 0x0200 }
    s.Inv ∧ decode s.fetch = .ok (.opFX33 0) ∧ (nextOf (step s)).map (·.pc) = some 0x0202 ∧
      port (s.index + BitVec.ofNat 16 (2 : Fin 3).val) = port 0x0202 ∧
      (storedAddresses (.opFX33 0) s).map port = [0x200, 0x201, 0x202] ∧ port (0x0202 + 1) = 0x203 := by decide
/-- FX33 whose first digit is the low byte of the next word. -/
theorem wit_StoreSeenByNextFetch_low_digit :
    let s := place 0x0200 0xF033 { base with index := 0x0203 }
    s.Inv ∧ decode s.fetch = .ok (.opFX33 0) ∧ (nextOf (step s)).map (·.pc) = some 0x0202 ∧
      port (s.index + BitVec.ofNat 16 (0 : Fin 3).val) = port (0x0202 + 1) := by decide
/-- A glyph's bits as the spec draws them: the top row of glyph 1 is 0x20, so its one pixel is column 2, and
its second row is 0x60 (G2). -/
theorem test_sprite_bits :
    (List.finRange 8).map (fun c => ({ base with index := 0x0005 } : State).spriteBit 0 c) =
        [false, false, true, false, false, false, false, false] ∧
      (List.finRange 8).map (fun c => ({ base with index := 0x0005 } : State).spriteBit 1 c) =
        [false, true, true, false, false, false, false, false] := by decide
/-- The set bit of a one-row sprite targets cell 0, and no bit targets cell 1. -/
theorem wit_DrawXorsTheSprite :
    (withSprite [0x80] base).SpriteTargets 0 0 1 0 ∧ ¬(withSprite [0x80] base).SpriteTargets 0 0 1 1 ∧
      Screen.cell (Screen.flip base.fb 0) 0 = true ∧ Screen.cell base.fb 0 = false :=
  ⟨⟨0, 0, by decide⟩, by unfold State.SpriteTargets; decide, by decide⟩
/-- The hypotheses of DrawingTwiceRestores, for X = 0 and for X = 15 with VF = 0 before and after; a targeted
cell that held 0 before; and N = 0, which targets none. -/
theorem wit_DrawingTwiceRestores :
    (nextOf (exec (.opDXYN 0 15 1) (withSprite [0x80] base))).map (fun t => (t.getV 0, t.getV 15)) =
        some ((withSprite [0x80] base).getV 0, (withSprite [0x80] base).getV 15) ∧
      (withSprite [0x80] base).SpriteTargets 0 0 1 0 ∧ Screen.cell (withSprite [0x80] base).fb 0 = false ∧
      ∀ c, ¬(withSprite [0x80] base).SpriteTargets 0 0 0 c :=
  ⟨by decide, ⟨0, 0, by decide⟩, by decide, fun _ ⟨_, _, h, _⟩ => Nat.not_lt_zero _ h⟩
theorem wit_KeySkips :
    (0 : Key).val = (base.getV 0).toNat % 16 ∧
      (15 : Key).val = ((base.setV 0 0xFF).getV 0).toNat % 16 := by decide
theorem wit_KeyReadReportsAPressedKey : (base.writeKey 15 true).key[(15 : Key)] = true := by decide
theorem wit_KeyWaitChangesNothing :
    (place 0x0200 0xF20A busy).ready = true ∧
      decode (place 0x0200 0xF20A busy).fetch = .ok (.opFX0A 2) ∧
      ∀ k : Key, (place 0x0200 0xF20A busy).key[k] = false := by decide
/-- FX15 at 0x0200 and FX07 after it. -/
theorem wit_DelayReadsBackOneLess :
    let s := (place 0x0200 0xF015 base).writeBytes 0x0202 [0xF1, 0x07]
    decode s.fetch = .ok (.opFX15 0) ∧
      (nextOf (step s)).map (fun t => decode t.fetch) = some (.ok (.opFX07 1)) := by decide
theorem wit_ResetLeavesTheStatedState :
    (List.replicate 3584 (0xAA : Byte)).length ≤ 3584 ∧
      (List.replicate 3585 (0xAA : Byte)).length > 3584 := by
  simp only [List.length_replicate]
  decide
theorem wit_HostMovesKeepCanonicalMemory :
    State.reset.Inv ∧ ∀ m ∈ [Move.reset [0x12, 0x00], .step, .writeKey 3 true, .ackChanged, .pokePc 1, .pokeDT 2,
      .pokeST 3], ∃ t, act m State.reset = .next t :=
  ⟨by decide, fun m hm => exists_next ((List.all_eq_true.1 (by decide : ([Move.reset [0x12, 0x00], .step,
    .writeKey 3 true, .ackChanged, .pokePc 1, .pokeDT 2, .pokeST 3].all fun m =>
      (nextOf (act m State.reset)).isSome) = true)) m hm)⟩

end Sys2Proof.Tests
end

section
/-!
PROOFS of the family 10_state.md (spec/10_state.md R20 to R41): what the execute stage and the whole step may
write, that VF is read only where it is named, and what a reset leaves.
-/

namespace Sys2Proof.Machine

/-! ### The instructions that can end in more than one way -/

/-- Everything a return that completes does: it pops, and goes 2 past the popped entry (R140). -/
theorem exec_00EE_eq_next {s t : State} (h : exec .op00EE s = .next t) :
    ∃ hl : 0 < s.sp.val,
      t = ({ s with sp := ⟨s.sp.val - 1, by omega⟩ } : State).finish
        (s.stack[s.sp.val - 1]'(by omega) + 2) := by
  change exec00EE s = .next t at h
  unfold exec00EE at h
  split at h
  · next w u hp =>
    obtain ⟨hl, rfl, rfl⟩ := State.pop_eq_some hp
    exact ⟨hl, (Host.Outcome.next.inj h).symm⟩
  · cases h

/-- Everything a call that completes does: it pushes its own address and jumps (R142). -/
theorem exec_2NNN_eq_next {nnn : BitVec 12} {s t : State} (h : exec (.op2NNN nnn) s = .next t) :
    ∃ hl : s.sp.val < 16,
      t = ({ s with stack := s.stack.set s.sp.val s.pc hl,
                    sp := ⟨s.sp.val + 1, by omega⟩ } : State).finish (address nnn) := by
  change exec2NNN nnn s = .next t at h
  unfold exec2NNN at h
  split at h
  · next u hp =>
    obtain ⟨hl, rfl⟩ := State.push_eq_some hp
    exact ⟨hl, (Host.Outcome.next.inj h).symm⟩
  · cases h

/-- Everything FX0A can do: it waits with no key pressed, or reads a pressed key (R223). -/
theorem exec_FX0A_eq_next {x : Reg} {s t : State} (h : exec (.opFX0A x) s = .next t) :
    ((∀ k : Key, s.key[k] = false) ∧ t = s.waitForKey) ∨
      ∃ k : Key, s.key[k] = true ∧ t = (s.setV x (keyByte k)).sequential := by
  change execFX0A x s = .next t at h
  unfold execFX0A at h
  split at h
  · next hp => exact .inl ⟨State.pressed_eq_nil.1 hp, (Host.Outcome.next.inj h).symm⟩
  · next p ps hp =>
    exact .inr ⟨keyPick p ps, State.mem_pressed.1 (hp ▸ keyPick_mem p ps),
      (Host.Outcome.next.inj h).symm⟩

/-- No instruction is without a meaning. -/
theorem exec_ne_refused (i : Instr) (s : State) (r : Refusal) : exec i s ≠ .refused r := by
  intro h
  cases i
  case op00EE =>
    change exec00EE s = _ at h
    unfold exec00EE at h
    split at h <;> cases h
  case op2NNN nnn =>
    change exec2NNN nnn s = _ at h
    unfold exec2NNN at h
    split at h <;> cases h
  case opFX0A x =>
    change execFX0A x s = _ at h
    unfold execFX0A at h
    split at h <;> cases h
  all_goals cases h

/-! ### The pieces of state an instruction may write -/

/-- `s` with the pieces that the execute stage of `i` may write taken from `t`: the "written by" column of
spec/10_state.md section 1. Every instruction may write `pc`, the general registers (which of them, says
`writtenRegs`) and the model's own two fields. -/
def overwritten (i : Instr) (s t : State) : State :=
  let r := { s with v := t.v, pc := t.pc, report := t.report, free := t.free }
  match i with
  | .op00E0 | .opDXYN _ _ _ => { r with fb := t.fb, fbChanged := t.fbChanged }
  | .op00EE | .op2NNN _ => { r with stack := t.stack, sp := t.sp }
  | .opANNN _ | .opFX1E _ | .opFX29 _ | .opFX65 _ => { r with index := t.index }
  | .opFX15 _ => { r with dt := t.dt }
  | .opFX18 _ => { r with st := t.st }
  | .opFX33 _ => { r with mem := t.mem }
  | .opFX55 _ => { r with mem := t.mem, index := t.index }
  | _ => r

/-- What an instruction may write, for every piece of state at once. -/
theorem exec_overwrites {i : Instr} {s t : State} (h : exec i s = .next t) :
    t = overwritten i s t := by
  cases i
  case op00EE =>
    obtain ⟨_, rfl⟩ := exec_00EE_eq_next h
    rfl
  case op2NNN =>
    obtain ⟨_, rfl⟩ := exec_2NNN_eq_next h
    rfl
  case opFX0A =>
    obtain ⟨_, rfl⟩ | ⟨_, _, rfl⟩ := exec_FX0A_eq_next h
    · rfl
    · rfl
  all_goals obtain rfl := Host.Outcome.next.inj h
  case opFX33 | opFX55 =>
    rw [State.writeBytes_eq]
    rfl
  case opFX65 =>
    unfold State.loadRegs
    rw [State.loadRegs_eq]
    rfl
  all_goals rfl

/-- Settles O17: the three fields of `exec_overwrites`. -/
theorem indexAndTimersWrittenAsNamed : Obligations.IndexAndTimersWrittenAsNamed := by
  intro i s t h
  have hindex := congrArg State.index (exec_overwrites h)
  have hdt := congrArg State.dt (exec_overwrites h)
  have hst := congrArg State.st (exec_overwrites h)
  cases i
  case opANNN | opFX1E | opFX29 | opFX55 | opFX65 => exact ⟨hdt, hst⟩
  case opFX15 => exact ⟨hindex, hst⟩
  case opFX18 => exact ⟨hindex, hdt⟩
  all_goals exact ⟨hindex, hdt, hst⟩

/-- Settles O18: what a call and a return do to the stack is in their inversion lemmas, and that no other
instruction writes it in `exec_overwrites`. -/
theorem stackWrittenByCallAndReturnOnly : Obligations.StackWrittenByCallAndReturnOnly := by
  intro i s t h
  have hsp := congrArg State.sp (exec_overwrites h)
  have hstack := congrArg State.stack (exec_overwrites h)
  cases i
  case op00EE =>
    obtain ⟨hl, rfl⟩ := exec_00EE_eq_next h
    exact ⟨Nat.sub_add_cancel hl, rfl⟩
  case op2NNN =>
    obtain ⟨hl, rfl⟩ := exec_2NNN_eq_next h
    exact ⟨rfl, fun k hk => Vector.getElem_set_ne hl k.isLt (Ne.symm hk)⟩
  all_goals exact ⟨hsp, hstack⟩

/-! ### A whole step -/

/-- A piece of state that neither the outcome nor the tick touches is, after a step, as it was if the word was
unknown, and as the execute stage left it otherwise. -/
theorem step_eq_next_field {α : Type} (f : State → α)
    (hreport : ∀ s r, f { s with report := r } = f s) (htick : ∀ s, f s.tick = f s) {s t : State}
    (h : step s = .next t) :
    (∃ e, decode s.fetch = .error e ∧ f t = f s) ∨
      ∃ i u, decode s.fetch = .ok i ∧ exec i s = .next u ∧ f t = f u := by
  obtain ⟨_, ⟨e, he, rfl⟩ | ⟨i, u, hi, hu, rfl⟩⟩ := step_eq_next h
  · exact .inl ⟨e, he, hreport ..⟩
  · refine .inr ⟨i, u, hi, hu, ?_⟩
    split
    · rfl
    · exact htick u

theorem exec_keeps_key_ready {i : Instr} {s t : State} (h : exec i s = .next t) :
    (t.key, t.ready) = (s.key, s.ready) := by
  rw [exec_overwrites h]
  cases i <;> rfl

/-- Settles O20: no instruction writes the keys or `ready`, nor do the outcome and the tick. -/
theorem stepsNeverWriteKeys : Obligations.StepsNeverWriteKeys := by
  intro s t h
  have hkept : (t.key, t.ready) = (s.key, s.ready) := by
    obtain ⟨_, _, ht⟩ | ⟨i, u, _, hu, ht⟩ :=
      step_eq_next_field (fun s => (s.key, s.ready)) (fun _ _ => rfl) (fun _ => rfl) h
    · exact ht
    · exact ht.trans (exec_keeps_key_ready hu)
  obtain ⟨hkey, hready⟩ := Prod.mk.inj hkept
  exact ⟨hkey, hready.trans (step_eq_next h).1⟩

theorem exec_keeps_screen {i : Instr} {s t : State} (hclear : i ≠ .op00E0)
    (hdraw : ∀ x y n, i ≠ .opDXYN x y n) (h : exec i s = .next t) :
    (t.fb, t.fbChanged) = (s.fb, s.fbChanged) := by
  rw [exec_overwrites h]
  cases i
  case op00E0 => exact absurd rfl hclear
  case opDXYN x y n => exact absurd rfl (hdraw x y n)
  all_goals rfl

/-- Settles O19: 00E0 and DXYN set the changed flag, no other instruction touches the screen, and neither do the
outcome and the tick. -/
theorem screenWrittenByDisplayOnly : Obligations.ScreenWrittenByDisplayOnly := by
  intro s t h
  obtain ⟨e, he, ht⟩ | ⟨i, u, hi, hu, ht⟩ :=
    step_eq_next_field (fun s => (s.fb, s.fbChanged)) (fun _ _ => rfl) (fun _ => rfl) h
  · rw [he]
    exact Prod.mk.inj ht
  · rw [hi]
    split
    next heq =>
      cases heq
      obtain rfl := Host.Outcome.next.inj hu
      exact congrArg Prod.snd ht
    next heq =>
      cases heq
      obtain rfl := Host.Outcome.next.inj hu
      exact congrArg Prod.snd ht
    next hclear hdraw =>
      have hkept := exec_keeps_screen (fun e => hclear (congrArg _ e))
        (fun x y n e => hdraw x y n (congrArg _ e)) hu
      exact Prod.mk.inj (ht.trans hkept)

/-! ### General registers -/

theorem State.setV_setV_self (s : State) (x : Reg) (a b : Byte) :
    (s.setV x a).setV x b = s.setV x b := by
  simp [State.setV]

theorem State.setV_setV_comm (s : State) {x y : Reg} (a b : Byte) (h : x ≠ y) :
    (s.setV x a).setV y b = (s.setV y b).setV x a := by
  simp [State.setV, Vector.set_comm a b (Fin.val_ne_of_ne h)]

@[simp] theorem State.getV_writeBytes (s : State) (a : Word) (bs : List Byte) (r : Reg) :
    (s.writeBytes a bs).getV r = s.getV r :=
  State.writeBytes_field (·.getV r) (fun _ _ => rfl) s a bs

theorem State.getV_loadRegs_of_notMem (s : State) {rs : List Reg} {r : Reg} (h : r ∉ rs) :
    (s.loadRegs rs).getV r = s.getV r := by
  rw [State.loadRegs, State.getV_loadRegs, if_neg h]

/-- Settles O13: every general register an instruction writes is written through `setV`, `setFlagged`, `setVF`
or `loadRegs`, and each of these leaves the registers it does not name alone. -/
theorem registersWrittenAsNamed : Obligations.RegistersWrittenAsNamed := by
  intro i s t h r hr
  cases i
  case op00EE =>
    obtain ⟨_, rfl⟩ := exec_00EE_eq_next h
    rfl
  case op2NNN =>
    obtain ⟨_, rfl⟩ := exec_2NNN_eq_next h
    rfl
  case opFX0A =>
    obtain ⟨_, rfl⟩ | ⟨_, _, rfl⟩ := exec_FX0A_eq_next h
    · rfl
    · exact State.getV_setV_ne s _ (List.ne_of_not_mem_cons hr)
  all_goals obtain rfl := Host.Outcome.next.inj h
  case op6XNN | op7XNN | op8XY0 | op8XY1 | op8XY2 | op8XY3 | opCXNN | opFX07 =>
    exact State.getV_setV_ne _ _ (List.ne_of_not_mem_cons hr)
  case op8XY4 | op8XY5 | op8XY6 | op8XY7 | op8XYE =>
    obtain ⟨hx, hf⟩ := not_or.1 (List.mem_pair.not.1 hr)
    exact State.getV_setFlagged_ne s _ _ hx hf
  case opDXYN | opFX1E => exact State.getV_setVF_ne _ _ (List.ne_of_not_mem_cons hr)
  case opFX65 => exact State.getV_loadRegs_of_notMem s hr
  case opFX33 | opFX55 => exact State.getV_writeBytes ..
  all_goals rfl

theorem flagByte_eq_zero_or_one (b : Bool) : flagByte b = 0 ∨ flagByte b = 1 := by
  cases b
  · exact .inl rfl
  · exact .inr rfl

/-- Settles O14: the last write of each of the seven is the flag's, so VF is a `flagByte`. -/
theorem flagInstructionsLeaveABit : Obligations.FlagInstructionsLeaveABit := by
  intro i s t h
  cases i
  case op8XY4 | op8XY5 | op8XY6 | op8XY7 | op8XYE =>
    obtain rfl := Host.Outcome.next.inj h
    rw [State.getV_sequential, State.getV_setFlagged_flag]
    exact flagByte_eq_zero_or_one _
  case opDXYN | opFX1E =>
    obtain rfl := Host.Outcome.next.inj h
    rw [State.getV_sequential, State.getV_setVF_flag]
    exact flagByte_eq_zero_or_one _
  all_goals trivial

/-! ### Each operation from a state with another VF -/

/-- A flag write hides what VF held. -/
theorem State.setVF_of_eq_setV {s t : State} {b : Byte} (f : Bool) (h : t = s.setV regF b) :
    t.setVF f = s.setVF f := h ▸ State.setV_setV_self ..

theorem State.setFlagged_setV_regF (s : State) (x : Reg) (b c : Byte) (f : Bool) :
    (s.setV regF b).setFlagged x c f = s.setFlagged x c f := by
  unfold State.setFlagged
  by_cases hx : regF = x
  · rw [hx, State.setV_setV_self]
  · rw [State.setV_setV_comm s b c hx, State.setVF_of_eq_setV f rfl]

theorem State.writeBytes_setV (x : Reg) (b : Byte) :
    ∀ (bs : List Byte) (s : State) (a : Word),
      (s.setV x b).writeBytes a bs = (s.writeBytes a bs).setV x b
  | [], _, _ => rfl
  | c :: bs, s, a => State.writeBytes_setV x b bs (s.writeByte a c) (a + 1)

theorem State.foldl_load_setV (s : State) (x : Reg) (b : Byte) :
    ∀ (rs : List Reg) (t : State),
      rs.foldl (fun t k => t.setV k (s.readByte (s.indexed k))) (t.setV x b) =
        if x ∈ rs then rs.foldl (fun t k => t.setV k (s.readByte (s.indexed k))) t
        else (rs.foldl (fun t k => t.setV k (s.readByte (s.indexed k))) t).setV x b
  | [], _ => rfl
  | k :: rs, t => by
    rw [List.foldl_cons, List.foldl_cons]
    by_cases hk : x = k
    · rw [hk, State.setV_setV_self, if_pos List.mem_cons_self]
    · rw [State.setV_setV_comm t b _ hk, State.foldl_load_setV s x b rs]
      simp [hk]

/-- Loading registers hides an earlier write of a listed one, and passes a write of another one. -/
theorem State.loadRegs_setV (s : State) (x : Reg) (b : Byte) (rs : List Reg) :
    (s.setV x b).loadRegs rs = if x ∈ rs then s.loadRegs rs else (s.loadRegs rs).setV x b :=
  State.foldl_load_setV s x b rs s

theorem State.push_setV (s : State) (x : Reg) (b : Byte) (w : Word) :
    (s.setV x b).push w = (s.push w).map (·.setV x b) := by
  by_cases h : s.sp.val < 16
  · rw [State.push_of_lt w h]
    exact State.push_of_lt (s := s.setV x b) w h
  · simp [State.push, h]

theorem State.pop_setV (s : State) (x : Reg) (b : Byte) :
    (s.setV x b).pop = s.pop.map fun p => (p.1, p.2.setV x b) := by
  by_cases h : 0 < s.sp.val
  · rw [State.pop_of_pos h]
    exact State.pop_of_pos (s := s.setV x b) h
  · simp [State.pop, h]

/-! ### VF is read only where it is named -/

/-- `f` on the next state of an answer that goes on. -/
def mapNext (f : State → State) : Result → Result
  | .next t => .next (f t)
  | .fault e => .fault e
  | .refused r => .refused r

/-- The state `i` leaves, where it left `t`, if VF held `b` before and `i` does not read it: VF is as `i` wrote
it, or still `b`. -/
def withUnreadVF (i : Instr) (b : Byte) (t : State) : State :=
  if regF ∈ writtenRegs i ∧ t.report ≠ .keyWait then t else t.setV regF b

section
variable {i : Instr} {b : Byte} {t u : State}

theorem eq_withUnreadVF_of_notMem (h : regF ∉ writtenRegs i) (hu : u = t.setV regF b) :
    u = withUnreadVF i b t := by
  rw [withUnreadVF, if_neg fun hw => h hw.1, hu]

theorem eq_withUnreadVF_of_keyWait (h : t.report = .keyWait) (hu : u = t.setV regF b) :
    u = withUnreadVF i b t := by
  rw [withUnreadVF, if_neg fun hw => hw.2 h, hu]

theorem eq_withUnreadVF_of_mem (h : regF ∈ writtenRegs i) (ht : t.report = .ok false) (hu : u = t) :
    u = withUnreadVF i b t := by
  rw [withUnreadVF, if_pos ⟨h, by simp [ht]⟩, hu]

/-- An instruction that writes one register hides the old VF if that register is VF, and passes it on if it is
another one. -/
theorem eq_withUnreadVF_of_setV {x : Reg} {c : Byte} (h : writtenRegs i = [x]) (s : State)
    (ht : t = (s.setV x c).sequential) (hu : u = ((s.setV regF b).setV x c).sequential) :
    u = withUnreadVF i b t := by
  subst ht hu
  by_cases hx : regF = x
  · subst hx
    exact eq_withUnreadVF_of_mem (by simp [h]) rfl (by rw [State.setV_setV_self])
  · exact eq_withUnreadVF_of_notMem (by simp [h, hx]) (by rw [State.setV_setV_comm s b c hx]; rfl)

end

/-- The execute stage of an instruction that does not name VF as a source, from a state with another VF: its
operands are the same, and what it writes hides that other VF or lets it through. That the open values of the
two runs are the same too (both states hold the same `free` and the same keys) is so in the model only, and
`Obligations.VFIsNeverReadImplicitly` does not claim it (log 1, log 2). -/
theorem exec_setV_regF {i : Instr} (s : State) (b : Byte) (hs : regF ∉ sourceRegs i) :
    exec i (s.setV regF b) = mapNext (withUnreadVF i b) (exec i s) := by
  have hread : ∀ x ∈ sourceRegs i, (s.setV regF b).getV x = s.getV x := fun x hx =>
    State.getV_setV_ne s b fun e => hs (e ▸ hx)
  cases i
  case op00E0 | op1NNN | opANNN =>
    exact congrArg Host.Outcome.next (eq_withUnreadVF_of_notMem List.not_mem_nil rfl)
  case op00EE =>
    simp only [exec, exec00EE, State.pop_setV]
    cases s.pop with
    | none => rfl
    | some p => exact congrArg Host.Outcome.next (eq_withUnreadVF_of_notMem List.not_mem_nil rfl)
  case op2NNN =>
    simp only [exec, exec2NNN, State.setV_pc, State.push_setV]
    cases s.push s.pc with
    | none => rfl
    | some t => exact congrArg Host.Outcome.next (eq_withUnreadVF_of_notMem List.not_mem_nil rfl)
  case opFX0A =>
    have hp : (s.setV regF b).pressed = s.pressed := rfl
    simp only [exec, execFX0A, hp]
    cases s.pressed with
    | nil => exact congrArg Host.Outcome.next (eq_withUnreadVF_of_keyWait rfl rfl)
    | cons p ps => exact congrArg Host.Outcome.next (eq_withUnreadVF_of_setV rfl s rfl rfl)
  case opFX55 x =>
    have hmap : (regsUpTo x).map (s.setV regF b).getV = (regsUpTo x).map s.getV :=
      List.map_congr_left hread
    simp only [exec, execFX55, hmap, State.setV_index, State.writeBytes_setV]
    exact congrArg Host.Outcome.next (eq_withUnreadVF_of_notMem List.not_mem_nil rfl)
  case opFX65 =>
    simp only [exec, execFX65, State.loadRegs_setV]
    split
    next hx => exact congrArg Host.Outcome.next (eq_withUnreadVF_of_mem hx rfl rfl)
    next hx => exact congrArg Host.Outcome.next (eq_withUnreadVF_of_notMem hx rfl)
  all_goals simp only [sourceRegs, List.forall_mem_cons] at hread
  case op3XNN | op4XNN | op5XY0 | op9XY0 | opEX9E | opEXA1 | opFX15 | opFX18 | opFX29 | opBNNN =>
    simp only [exec, exec3XNN, exec4XNN, exec5XY0, exec9XY0, execBNNN, execEX9E, execEXA1, execFX15,
      execFX18, execFX29, hread]
    exact congrArg Host.Outcome.next (eq_withUnreadVF_of_notMem List.not_mem_nil rfl)
  case opFX33 =>
    simp only [exec, execFX33, hread, State.setV_index, State.writeBytes_setV]
    exact congrArg Host.Outcome.next (eq_withUnreadVF_of_notMem List.not_mem_nil rfl)
  case opCXNN =>
    exact congrArg Host.Outcome.next
      (eq_withUnreadVF_of_setV rfl { s with free := s.free + 1 } rfl rfl)
  case op6XNN | op7XNN | op8XY0 | op8XY1 | op8XY2 | op8XY3 | opFX07 =>
    simp only [exec, exec6XNN, exec7XNN, exec8XY0, exec8XY1, exec8XY2, exec8XY3, execFX07, hread]
    exact congrArg Host.Outcome.next (eq_withUnreadVF_of_setV rfl s rfl rfl)
  case op8XY4 | op8XY5 | op8XY6 | op8XY7 | op8XYE =>
    simp only [exec, exec8XY4, exec8XY5, exec8XY6, exec8XY7, exec8XYE, hread,
      State.setFlagged_setV_regF]
    exact congrArg Host.Outcome.next (eq_withUnreadVF_of_mem (by simp [writtenRegs]) rfl rfl)
  case opDXYN | opFX1E =>
    simp only [exec, execDXYN, execFX1E, hread]
    exact congrArg Host.Outcome.next
      (eq_withUnreadVF_of_mem List.mem_cons_self rfl
        (congrArg State.sequential (State.setVF_of_eq_setV _ rfl)))

/-- Settles O15 by `exec_setV_regF`: the two next states are `t` and `withUnreadVF i b t`. -/
theorem vfIsNeverReadImplicitly : Obligations.VFIsNeverReadImplicitly := by
  intro i s b hs
  rw [exec_setV_regF s b hs]
  cases h : exec i s with
  | next t =>
    show withUnreadVF i b t = { t with v := (withUnreadVF i b t).v } ∧ _
    by_cases hw : regF ∈ writtenRegs i ∧ t.report ≠ .keyWait
    · rw [withUnreadVF, if_pos hw]
      exact ⟨rfl, fun _ _ _ => rfl, fun _ _ => rfl, fun hn => absurd hw hn⟩
    · rw [withUnreadVF, if_neg hw]
      exact ⟨rfl, fun r hr _ => State.getV_setV_ne t b hr, fun h => absurd h hw,
        fun _ => State.getV_setV_self t regF b⟩
  | fault f => rfl
  | refused r => exact absurd h (exec_ne_refused i s r)

/-! ### Reset -/

theorem font_length : font.length = 80 := rfl

theorem Memory.initial_above_font {a : Nat} (h : 80 ≤ a) : Memory.initial a = 0 :=
  List.getD_eq_default _ _ (font_length ▸ h)

/-- What a ROM of at most 3584 bytes leaves in memory: the font table, the ROM, and 0 elsewhere (R40). -/
theorem Memory.read_rom {rom : List Byte} (h : rom.length ≤ 3584) (a : Nat) :
    Memory.read (Memory.writeRange [] 0x200 rom) a =
      if a < 80 then font.getD a 0
      else if 0x200 ≤ a ∧ a < 0x200 + rom.length then rom.getD (a - 0x200) 0 else 0 := by
  by_cases hrom : 0x200 ≤ a ∧ a < 0x200 + rom.length
  · obtain ⟨k, rfl⟩ := Nat.exists_eq_add_of_le hrom.1
    have hk : k < rom.length := by omega
    rw [Memory.read_writeRange_inside rom hk (by omega) rfl, if_neg (by omega), if_pos hrom,
      Nat.add_sub_cancel_left, List.getD_eq_getElem _ _ hk]
  · rw [Memory.read_writeRange_outside rom [] _ (by omega), if_neg hrom]
    show Memory.initial a = _
    split
    · rfl
    · next ha => exact Memory.initial_above_font (Nat.le_of_not_lt ha)

theorem resetRom_of_le {rom : List Byte} (s : State) (h : rom.length ≤ 3584) :
    resetRom rom s =
      .success { State.reset with mem := Memory.writeRange [] 0x200 rom, free := s.free } :=
  if_pos h

theorem resetRom_of_gt {rom : List Byte} (s : State) (h : rom.length > 3584) :
    resetRom rom s = .romTooLarge (State.lostAt s.free) :=
  if_neg (Nat.not_le_of_gt h)

theorem Screen.cell_replicate_zero (c : Fin 2048) :
    Screen.cell (Vector.replicate 32 0) c = false := by
  simp [Screen.cell]

/-- Settles O56: the fields are those of `State.reset`, and `Memory.read_rom` says what memory holds. -/
theorem resetLeavesTheStatedState : Obligations.ResetLeavesTheStatedState := by
  intro rom s
  constructor
  · intro h
    have hv (r : Reg) : State.reset.getV r = 0 := Vector.getElem_replicate r.isLt
    have hstack (k : Fin 16) : State.reset.stack[k] = 0 := Vector.getElem_replicate k.isLt
    have hkey (k : Key) : State.reset.key[k] = false := Vector.getElem_replicate k.isLt
    exact ⟨_, resetRom_of_le s h, hv, rfl, rfl, hstack, rfl, rfl, rfl, Screen.cell_replicate_zero,
      rfl, hkey, rfl, font_length, fun a _ => Memory.read_rom h a⟩
  · intro h
    exact ⟨_, resetRom_of_gt s h, rfl⟩

/-- Settles O22: a reset with an empty ROM lists no cell. -/
theorem resetMemoryIsCanonical : Obligations.ResetMemoryIsCanonical := rfl

end Sys2Proof.Machine
end

section
/-!
PROOFS of the family 20_memory.md (spec/20_memory.md R60 to R75): every change of memory is one run of bytes
written from I up, so that the canonical form, what a store leaves alone and what the next fetch sees follow
from the laws of `writeBytes`.
-/

namespace Sys2Proof.Machine

/-! ### What an instruction stores -/

/-- The bytes an instruction stores, from the state it starts in, at the addresses `storedAddresses` lists
(R67, R184, R185). -/
def storedBytes (i : Instr) (s : State) : List Byte :=
  match i with
  | .opFX33 x => decimalDigits (s.getV x)
  | .opFX55 x => (regsUpTo x).map s.getV
  | _ => []

/-- `s` with the bytes of `i` stored, from I up. -/
def State.withStores (s : State) (i : Instr) : State := s.writeBytes s.index (storedBytes i s)

/-- The bytes lie where `storedAddresses` says. -/
theorem storedAddresses_eq (i : Instr) (s : State) :
    storedAddresses i s =
      (List.range (storedBytes i s).length).map fun k => s.index + BitVec.ofNat 16 k := by
  cases i
  case opFX33 x => simp [storedAddresses, storedBytes, decimalDigits, List.range_succ]
  case opFX55 x =>
    apply List.ext_getElem
    · simp [storedAddresses, storedBytes]
    · intro k hk _
      simp [storedAddresses, State.indexed, getElem_regsUpTo]
  all_goals rfl

theorem length_storedBytes_le (i : Instr) (s : State) : (storedBytes i s).length ≤ 16 := by
  cases i
  case opFX33 x => exact (by decide : 3 ≤ 16)
  case opFX55 x =>
    rw [storedBytes, List.length_map, length_regsUpTo]
    exact x.isLt
  all_goals exact Nat.zero_le 16

/-- The one way the execute stage changes memory: it writes the stored bytes from I up (R67, R68). -/
theorem exec_mem {i : Instr} {s t : State} (h : exec i s = .next t) : t.mem = (s.withStores i).mem := by
  have hmem := congrArg State.mem (exec_overwrites h)
  cases i
  case opFX33 | opFX55 =>
    obtain rfl := Host.Outcome.next.inj h
    rfl
  all_goals exact hmem

/-- The tick writes no memory, so a whole step changes it as its execute stage does. -/
theorem step_mem {i : Instr} {s t : State} (hi : decode s.fetch = .ok i) (h : step s = .next t) :
    t.mem = (s.withStores i).mem := by
  obtain ⟨e, he, _⟩ | ⟨j, u, hj, hu, ht⟩ :=
    step_eq_next_field State.mem (fun _ _ => rfl) (fun _ => rfl) h
  · cases hi.symm.trans he
  · cases hi.symm.trans hj
    exact ht.trans (exec_mem hu)

/-! ### The canonical form -/

/-- The form is a matter of memory alone. -/
theorem State.inv_of_mem_eq {s t : State} (h : t.mem = s.mem) (hs : s.Inv) : t.Inv :=
  (congrArg Memory.wf h).trans hs

/-- Settles O21: an unknown word leaves memory as it is, and a decoded instruction writes bytes, which
`State.writeBytes_inv` says keeps the form. -/
theorem stepKeepsCanonicalMemory : Obligations.StepKeepsCanonicalMemory := by
  intro s t hs h
  obtain ⟨_, _, ht⟩ | ⟨i, u, _, hu, ht⟩ :=
    step_eq_next_field State.mem (fun _ _ => rfl) (fun _ => rfl) h
  · exact State.inv_of_mem_eq ht hs
  · exact State.inv_of_mem_eq (ht.trans (exec_mem hu)) (State.writeBytes_inv _ _ hs)

/-! ### What stores leave alone and what they leave behind -/

theorem State.readByte_of_mem_eq {s t : State} (h : t.mem = s.mem) (a : Word) :
    t.readByte a = s.readByte a :=
  congrArg (Memory.read · (port a)) h

/-- Addresses that reduce alike read alike (R62, D2). -/
theorem State.readByte_of_port_eq (s : State) {a p : Word} (h : port p = port a) :
    s.readByte a = s.readByte p :=
  congrArg (Memory.read s.mem) h.symm

section
variable {i : Instr} {s t : State} {a : Word}

theorem readByte_of_not_stored (hmem : t.mem = (s.withStores i).mem)
    (ha : ∀ p ∈ storedAddresses i s, port p ≠ port a) : t.readByte a = s.readByte a := by
  rw [State.readByte_of_mem_eq hmem]
  apply State.readByte_writeBytes_outside
  intro k hk
  apply ha
  rw [storedAddresses_eq]
  exact List.mem_map_of_mem (List.mem_range.2 hk)

theorem readByte_of_stored (hmem : t.mem = (s.withStores i).mem) (hs : s.Inv)
    {k : Nat} (hk : k < (storedBytes i s).length) (ha : port (s.index + BitVec.ofNat 16 k) = port a) :
    t.readByte a = (storedBytes i s)[k] := by
  have hlen := length_storedBytes_le i s
  rw [State.readByte_of_mem_eq hmem, State.readByte_of_port_eq _ ha]
  exact State.readByte_writeBytes_inside _ _ hk (by omega) hs

/-- A byte FX55 stored is the register stored there (R185). -/
theorem readByte_of_stored_reg {x r : Reg}
    (hmem : t.mem = (s.withStores (.opFX55 x)).mem) (hs : s.Inv) (hr : r ≤ x)
    (ha : port (s.indexed r) = port a) : t.readByte a = s.getV r := by
  have hk : r.val < (storedBytes (.opFX55 x) s).length := by
    rw [storedBytes, List.length_map, length_regsUpTo]
    exact Nat.lt_succ_of_le hr
  have hreg : (regsUpTo x)[r.val]'(by simpa [storedBytes] using hk) = r :=
    Fin.ext (getElem_regsUpTo _)
  rw [readByte_of_stored hmem hs hk ha]
  simp only [storedBytes, List.getElem_map, hreg]

/-- The digit of a byte at each place, as a number (R184). -/
theorem decimalDigits_toNat (b : Byte) (k : Fin 3) :
    ((decimalDigits b)[k.val]'k.isLt).toNat = b.toNat / 10 ^ (2 - k.val) % 10 := by
  have hb := b.isLt
  match k with
  | 0 =>
    show b.toNat / 100 % 256 = b.toNat / 100 % 10
    omega
  | 1 =>
    show b.toNat / 10 % 10 % 256 = b.toNat / 10 % 10
    omega
  | 2 =>
    show b.toNat % 10 % 256 = b.toNat / 1 % 10
    omega

/-- A byte FX33 stored is the digit stored there (R184). -/
theorem readByte_of_stored_digit {x : Reg}
    (hmem : t.mem = (s.withStores (.opFX33 x)).mem) (hs : s.Inv) (k : Fin 3)
    (ha : port (s.index + BitVec.ofNat 16 k.val) = port a) :
    (t.readByte a).toNat = (s.getV x).toNat / 10 ^ (2 - k.val) % 10 := by
  rw [readByte_of_stored hmem hs k.isLt ha]
  exact decimalDigits_toNat (s.getV x) k

end

/-- Settles O16: a byte that no stored address reduces to is outside the run of bytes `exec_mem` says was
written. -/
theorem memoryWrittenByStoresOnly : Obligations.MemoryWrittenByStoresOnly :=
  fun _ _ _ h _ ha => readByte_of_not_stored (exec_mem h) ha

/-! ### The next fetch -/

theorem wordOfBytes_toNat (b0 b1 : Byte) : (wordOfBytes b0 b1).toNat = b0.toNat * 256 + b1.toNat := by
  rw [wordOfBytes, BitVec.toNat_append, ← Nat.shiftLeft_add_eq_or_of_lt b1.isLt, Nat.shiftLeft_eq]

/-- The high byte of the fetched word is the byte at `pc` (R64). -/
theorem State.fetch_high (s : State) : s.fetch.toNat / 256 = (s.readByte s.pc).toNat := by
  have := (s.readByte (s.pc + 1)).isLt
  rw [State.fetch, wordOfBytes_toNat]
  omega

/-- The low byte of the fetched word is the byte at `pc + 1` (R64). -/
theorem State.fetch_low (s : State) : s.fetch.toNat % 256 = (s.readByte (s.pc + 1)).toNat := by
  have := (s.readByte (s.pc + 1)).isLt
  rw [State.fetch, wordOfBytes_toNat]
  omega

/-- Settles O45: the fetch reads memory as the step left it, and `step_mem` says what the step wrote there. -/
theorem storeSeenByNextFetch : Obligations.StoreSeenByNextFetch := by
  intro i s t hs hi h
  have hmem := step_mem hi h
  simp only [State.fetch_high, State.fetch_low]
  refine ⟨?registers, ?digits, ?highKept, ?lowKept⟩
  case registers =>
    rintro x rfl r hr
    exact ⟨fun ha => congrArg BitVec.toNat (readByte_of_stored_reg hmem hs hr ha),
      fun ha => congrArg BitVec.toNat (readByte_of_stored_reg hmem hs hr ha)⟩
  case digits =>
    rintro x rfl k
    exact ⟨readByte_of_stored_digit hmem hs k, readByte_of_stored_digit hmem hs k⟩
  case highKept => exact fun ha => congrArg BitVec.toNat (readByte_of_not_stored hmem ha)
  case lowKept => exact fun ha => congrArg BitVec.toNat (readByte_of_not_stored hmem ha)

end Sys2Proof.Machine
end

section
/-!
PROOFS of the family 30_encoding.md (spec/30_encoding.md R90 to R102): a word is put together from its fields
and taken apart into them, so that the encoder, the decoder and the opcode map are held against each other
format by format.
-/

namespace Sys2Proof.Laws

/-! ### The fields of a word in each format (R91, R92) -/

@[simp] theorem fieldF_wordNNN (f : BitVec 4) (nnn : BitVec 12) : fieldF (wordNNN f nnn) = f :=
  BitVec.extractLsb'_append_eq_left

@[simp] theorem fieldNNN_wordNNN (f : BitVec 4) (nnn : BitVec 12) : fieldNNN (wordNNN f nnn) = nnn :=
  BitVec.extractLsb'_append_eq_right

@[simp] theorem fieldF_wordXNN (f : BitVec 4) (x : Reg) (nn : Byte) : fieldF (wordXNN f x nn) = f :=
  (BitVec.extractLsb'_append_eq_of_le (by decide)).trans BitVec.extractLsb'_append_eq_left

@[simp] theorem fieldX_wordXNN (f : BitVec 4) (x : Reg) (nn : Byte) : fieldX (wordXNN f x nn) = x :=
  congrArg BitVec.toFin
    ((BitVec.extractLsb'_append_eq_of_le (by decide)).trans BitVec.extractLsb'_append_eq_right)

@[simp] theorem fieldNN_wordXNN (f : BitVec 4) (x : Reg) (nn : Byte) : fieldNN (wordXNN f x nn) = nn :=
  BitVec.extractLsb'_append_eq_right

/-- Formats `XY` and `XYN` are format `XNN` with a low byte of two fields. -/
theorem wordXYN_eq_wordXNN (f : BitVec 4) (x y : Reg) (n : BitVec 4) :
    wordXYN f x y n = wordXNN f x (regBits y ++ n) := rfl

@[simp] theorem fieldF_wordXYN (f : BitVec 4) (x y : Reg) (n : BitVec 4) :
    fieldF (wordXYN f x y n) = f :=
  fieldF_wordXNN ..

@[simp] theorem fieldX_wordXYN (f : BitVec 4) (x y : Reg) (n : BitVec 4) :
    fieldX (wordXYN f x y n) = x :=
  fieldX_wordXNN ..

@[simp] theorem fieldY_wordXYN (f : BitVec 4) (x y : Reg) (n : BitVec 4) :
    fieldY (wordXYN f x y n) = y :=
  congrArg BitVec.toFin
    ((BitVec.extractLsb'_append_eq_of_add_le (by decide)).trans BitVec.extractLsb'_append_eq_left)

@[simp] theorem fieldN_wordXYN (f : BitVec 4) (x y : Reg) (n : BitVec 4) :
    fieldN (wordXYN f x y n) = n :=
  (BitVec.extractLsb'_append_eq_of_add_le (by decide)).trans BitVec.extractLsb'_append_eq_right

/-! ### A word from its own fields -/

theorem wordNNN_fields (w : Word) : wordNNN (fieldF w) (fieldNNN w) = w :=
  BitVec.extractLsb'_append_extractLsb'

theorem wordXNN_fields (w : Word) : wordXNN (fieldF w) (fieldX w) (fieldNN w) = w := by
  have hhigh : fieldF w ++ regBits (fieldX w) = w.extractLsb' 8 8 :=
    BitVec.extractLsb'_append_extractLsb'_eq_extractLsb' rfl
  rw [wordXNN, hhigh]
  exact BitVec.extractLsb'_append_extractLsb'

theorem wordXYN_fields (w : Word) : wordXYN (fieldF w) (fieldX w) (fieldY w) (fieldN w) = w := by
  have hlow : regBits (fieldY w) ++ fieldN w = fieldNN w :=
    BitVec.extractLsb'_append_extractLsb'_eq_extractLsb' rfl
  rw [wordXYN_eq_wordXNN, hlow, wordXNN_fields]

section
variable {w : Word} {f n : BitVec 4} {nn : Byte}

/-! The same word with the fields an instruction fixes at the values the decoder has found there. -/

theorem wordNNN_eq_self (hf : (fieldF w).toNat = f.toNat) : wordNNN f (fieldNNN w) = w :=
  BitVec.eq_of_toNat_eq hf ▸ wordNNN_fields w

theorem wordXNN_eq_self (hf : (fieldF w).toNat = f.toNat) :
    wordXNN f (fieldX w) (fieldNN w) = w :=
  BitVec.eq_of_toNat_eq hf ▸ wordXNN_fields w

theorem wordXNN_low_eq_self (hf : (fieldF w).toNat = f.toNat) (hnn : (fieldNN w).toNat = nn.toNat) :
    wordXNN f (fieldX w) nn = w :=
  BitVec.eq_of_toNat_eq hnn ▸ wordXNN_eq_self hf

theorem wordXYN_eq_self (hf : (fieldF w).toNat = f.toNat) :
    wordXYN f (fieldX w) (fieldY w) (fieldN w) = w :=
  BitVec.eq_of_toNat_eq hf ▸ wordXYN_fields w

theorem wordXY_eq_self (hf : (fieldF w).toNat = f.toNat) (hn : (fieldN w).toNat = n.toNat) :
    wordXYN f (fieldX w) (fieldY w) n = w :=
  BitVec.eq_of_toNat_eq hn ▸ wordXYN_eq_self hf

end

/-! ### Decoding what was encoded -/

/-- Settles O1: each format gives its fields back, and the decoder dispatches on the fields the encoder
fixed. -/
theorem decodeOfEncode : Obligations.DecodeOfEncode := by
  intro i
  cases i
  case op00E0 | op00EE => rfl
  case op1NNN | op2NNN | opANNN | opBNNN | op3XNN | op4XNN | op6XNN | op7XNN | opCXNN | opDXYN =>
    simp [encode, decode]
  case op5XY0 | op9XY0 => simp [encode, decode, decodeLowZero]
  case op8XY0 | op8XY1 | op8XY2 | op8XY3 | op8XY4 | op8XY5 | op8XY6 | op8XY7 | op8XYE =>
    simp [encode, decode, decodeFamily8]
  case opEX9E | opEXA1 => simp [encode, decode, decodeFamilyE]
  case opFX07 | opFX0A | opFX15 | opFX18 | opFX1E | opFX29 | opFX33 | opFX55 | opFX65 =>
    simp [encode, decode, decodeFamilyF]

/-! ### What the decoder can answer -/

/-- An answer that is right about `w`: an instruction whose word is `w`, or `w` reported as unknown. -/
def AnswerFor (w : Word) : Except Reject Instr → Prop
  | .ok i => encode i = w
  | .error e => e = .unknownOpcode w

theorem decodeFamily0_answers (w : Word) : AnswerFor w (decodeFamily0 w) := by
  unfold decodeFamily0
  split
  next h => exact h.symm
  next =>
    split
    next h => exact h.symm
    next => exact rfl

theorem decodeLowZero_answers {i : Instr} {w : Word} (h : fieldN w = 0 → encode i = w) :
    AnswerFor w (decodeLowZero i w) := by
  unfold decodeLowZero
  split
  next hn => exact h hn
  next => exact rfl

theorem decodeFamily8_answers {w : Word} (hf : (fieldF w).toNat = 0x8) :
    AnswerFor w (decodeFamily8 w) := by
  unfold decodeFamily8
  split
  case h_10 => exact rfl
  all_goals next hn => exact wordXY_eq_self hf hn

theorem decodeFamilyE_answers {w : Word} (hf : (fieldF w).toNat = 0xE) :
    AnswerFor w (decodeFamilyE w) := by
  unfold decodeFamilyE
  split
  case h_3 => exact rfl
  all_goals next hnn => exact wordXNN_low_eq_self hf hnn

theorem decodeFamilyF_answers {w : Word} (hf : (fieldF w).toNat = 0xF) :
    AnswerFor w (decodeFamilyF w) := by
  unfold decodeFamilyF
  split
  case h_10 => exact rfl
  all_goals next hnn => exact wordXNN_low_eq_self hf hnn

/-- What the decoder can answer, said once: family by family, the fields it read make the word up. -/
theorem decode_answers (w : Word) : AnswerFor w (decode w) := by
  unfold decode
  split
  next => exact decodeFamily0_answers w
  next hf => exact wordNNN_eq_self hf
  next hf => exact wordNNN_eq_self hf
  next hf => exact wordXNN_eq_self hf
  next hf => exact wordXNN_eq_self hf
  next hf => exact decodeLowZero_answers fun hn => wordXY_eq_self hf (congrArg BitVec.toNat hn)
  next hf => exact wordXNN_eq_self hf
  next hf => exact wordXNN_eq_self hf
  next hf => exact decodeFamily8_answers hf
  next hf => exact decodeLowZero_answers fun hn => wordXY_eq_self hf (congrArg BitVec.toNat hn)
  next hf => exact wordNNN_eq_self hf
  next hf => exact wordNNN_eq_self hf
  next hf => exact wordXNN_eq_self hf
  next hf => exact wordXYN_eq_self hf
  next hf => exact decodeFamilyE_answers hf
  next hf => exact decodeFamilyF_answers hf
  next => exact rfl

/-- Settles O2 by `decode_answers`. -/
theorem encodeOfDecode : Obligations.EncodeOfDecode := by
  intro w i h
  have hw := decode_answers w
  rwa [h] at hw

/-! ### Rows of the opcode map (R96) -/

theorem fieldF_and_F000 (w : Word) : fieldF (w &&& 0xF000) = fieldF w := by
  have h := maskNNN (fieldF w) (fieldNNN w)
  rw [wordNNN_fields] at h
  rw [h, fieldF_wordNNN]

theorem and_F0FF_eq_wordXNN (w : Word) : w &&& 0xF0FF = wordXNN (fieldF w) 0 (fieldNN w) := by
  have h := maskXNN_low (fieldF w) (fieldX w) (fieldNN w)
  rwa [wordXNN_fields] at h

theorem and_F00F_eq_wordXYN (w : Word) : w &&& 0xF00F = wordXYN (fieldF w) 0 0 (fieldN w) := by
  have h := maskXY (fieldF w) (fieldX w) (fieldY w) (fieldN w)
  rwa [wordXYN_fields] at h

section
variable {w p : Word} {f n : BitVec 4} {nn : Byte}

/-! A word that passes a row's mask is put together from the fields the row fixes and its own others. -/

theorem eq_of_mask_FFFF (h : w &&& 0xFFFF = p) : p = w :=
  h ▸ BitVec.and_allOnes

theorem wordNNN_of_mask (h : w &&& 0xF000 = wordNNN f 0) : wordNNN f (fieldNNN w) = w := by
  have hf : fieldF w = f := by rw [← fieldF_and_F000, h, fieldF_wordNNN]
  rw [← hf, wordNNN_fields]

theorem wordXNN_of_mask (h : w &&& 0xF000 = wordXNN f 0 0) :
    wordXNN f (fieldX w) (fieldNN w) = w := by
  have hf : fieldF w = f := by rw [← fieldF_and_F000, h, fieldF_wordXNN]
  rw [← hf, wordXNN_fields]

theorem wordXYN_of_mask (h : w &&& 0xF000 = wordXYN f 0 0 0) :
    wordXYN f (fieldX w) (fieldY w) (fieldN w) = w := by
  have hf : fieldF w = f := by rw [← fieldF_and_F000, h, fieldF_wordXYN]
  rw [← hf, wordXYN_fields]

theorem wordXNN_low_of_mask (h : w &&& 0xF0FF = wordXNN f 0 nn) :
    wordXNN f (fieldX w) nn = w := by
  rw [and_F0FF_eq_wordXNN] at h
  have hf : fieldF w = f := by simpa using congrArg fieldF h
  have hnn : fieldNN w = nn := by simpa using congrArg fieldNN h
  rw [← hf, ← hnn, wordXNN_fields]

theorem wordXY_of_mask (h : w &&& 0xF00F = wordXYN f 0 0 n) :
    wordXYN f (fieldX w) (fieldY w) n = w := by
  rw [and_F00F_eq_wordXYN] at h
  have hf : fieldF w = f := by simpa using congrArg fieldF h
  have hn : fieldN w = n := by simpa using congrArg fieldN h
  rw [← hf, ← hn, wordXYN_fields]

end

/-- `w` is the word of an instruction whose own row is `r`. -/
def EncodedInRow (w : Word) (r : OpcodeRow) : Prop :=
  ∃ i, encode i = w ∧ opcodeMap[i.rowIndex]? = some r

theorem encodedInRow_of_mem_opcodeRows1 (w : Word) :
    ∀ r ∈ opcodeRows1, w &&& r.mask = r.pattern → EncodedInRow w r := by
  simp only [opcodeRows1, List.forall_mem_cons]
  exact
    ⟨fun h => ⟨.op00E0, eq_of_mask_FFFF h, rfl⟩,
      fun h => ⟨.op00EE, eq_of_mask_FFFF h, rfl⟩,
      fun h => ⟨.op1NNN (fieldNNN w), wordNNN_of_mask h, rfl⟩,
      fun h => ⟨.op2NNN (fieldNNN w), wordNNN_of_mask h, rfl⟩,
      fun h => ⟨.op3XNN (fieldX w) (fieldNN w), wordXNN_of_mask h, rfl⟩,
      fun h => ⟨.op4XNN (fieldX w) (fieldNN w), wordXNN_of_mask h, rfl⟩,
      fun h => ⟨.op5XY0 (fieldX w) (fieldY w), wordXY_of_mask h, rfl⟩,
      fun h => ⟨.op6XNN (fieldX w) (fieldNN w), wordXNN_of_mask h, rfl⟩,
      fun h => ⟨.op7XNN (fieldX w) (fieldNN w), wordXNN_of_mask h, rfl⟩,
      nofun⟩

theorem encodedInRow_of_mem_opcodeRows2 (w : Word) :
    ∀ r ∈ opcodeRows2, w &&& r.mask = r.pattern → EncodedInRow w r := by
  simp only [opcodeRows2, List.forall_mem_cons]
  exact
    ⟨fun h => ⟨.op8XY0 (fieldX w) (fieldY w), wordXY_of_mask h, rfl⟩,
      fun h => ⟨.op8XY1 (fieldX w) (fieldY w), wordXY_of_mask h, rfl⟩,
      fun h => ⟨.op8XY2 (fieldX w) (fieldY w), wordXY_of_mask h, rfl⟩,
      fun h => ⟨.op8XY3 (fieldX w) (fieldY w), wordXY_of_mask h, rfl⟩,
      fun h => ⟨.op8XY4 (fieldX w) (fieldY w), wordXY_of_mask h, rfl⟩,
      fun h => ⟨.op8XY5 (fieldX w) (fieldY w), wordXY_of_mask h, rfl⟩,
      fun h => ⟨.op8XY6 (fieldX w) (fieldY w), wordXY_of_mask h, rfl⟩,
      fun h => ⟨.op8XY7 (fieldX w) (fieldY w), wordXY_of_mask h, rfl⟩,
      fun h => ⟨.op8XYE (fieldX w) (fieldY w), wordXY_of_mask h, rfl⟩,
      fun h => ⟨.op9XY0 (fieldX w) (fieldY w), wordXY_of_mask h, rfl⟩,
      fun h => ⟨.opANNN (fieldNNN w), wordNNN_of_mask h, rfl⟩,
      fun h => ⟨.opBNNN (fieldNNN w), wordNNN_of_mask h, rfl⟩,
      fun h => ⟨.opCXNN (fieldX w) (fieldNN w), wordXNN_of_mask h, rfl⟩,
      fun h => ⟨.opDXYN (fieldX w) (fieldY w) (fieldN w), wordXYN_of_mask h, rfl⟩,
      nofun⟩

theorem encodedInRow_of_mem_opcodeRows3 (w : Word) :
    ∀ r ∈ opcodeRows3, w &&& r.mask = r.pattern → EncodedInRow w r := by
  simp only [opcodeRows3, List.forall_mem_cons]
  exact
    ⟨fun h => ⟨.opEX9E (fieldX w), wordXNN_low_of_mask h, rfl⟩,
      fun h => ⟨.opEXA1 (fieldX w), wordXNN_low_of_mask h, rfl⟩,
      fun h => ⟨.opFX07 (fieldX w), wordXNN_low_of_mask h, rfl⟩,
      fun h => ⟨.opFX0A (fieldX w), wordXNN_low_of_mask h, rfl⟩,
      fun h => ⟨.opFX15 (fieldX w), wordXNN_low_of_mask h, rfl⟩,
      fun h => ⟨.opFX18 (fieldX w), wordXNN_low_of_mask h, rfl⟩,
      fun h => ⟨.opFX1E (fieldX w), wordXNN_low_of_mask h, rfl⟩,
      fun h => ⟨.opFX29 (fieldX w), wordXNN_low_of_mask h, rfl⟩,
      fun h => ⟨.opFX33 (fieldX w), wordXNN_low_of_mask h, rfl⟩,
      fun h => ⟨.opFX55 (fieldX w), wordXNN_low_of_mask h, rfl⟩,
      fun h => ⟨.opFX65 (fieldX w), wordXNN_low_of_mask h, rfl⟩,
      nofun⟩

/-- Each row accepts words of its own instruction only (R96). -/
theorem encodedInRow_of_accepts {w : Word} {r : OpcodeRow} (hr : r ∈ opcodeMap)
    (h : r.accepts w = true) : EncodedInRow w r := by
  have hmask : w &&& r.mask = r.pattern := beq_iff_eq.1 h
  simp only [opcodeMap, List.mem_append] at hr
  obtain (h1 | h2) | h3 := hr
  · exact encodedInRow_of_mem_opcodeRows1 w r h1 hmask
  · exact encodedInRow_of_mem_opcodeRows2 w r h2 hmask
  · exact encodedInRow_of_mem_opcodeRows3 w r h3 hmask

/-- The row of every instruction accepts its word. -/
theorem encoding_statement : ∀ i, Encoding.Statement i
  | .op00E0 => Encoding.op00E0
  | .op00EE => Encoding.op00EE
  | .op1NNN nnn => Encoding.op1NNN nnn
  | .op2NNN nnn => Encoding.op2NNN nnn
  | .op3XNN x nn => Encoding.op3XNN x nn
  | .op4XNN x nn => Encoding.op4XNN x nn
  | .op5XY0 x y => Encoding.op5XY0 x y
  | .op6XNN x nn => Encoding.op6XNN x nn
  | .op7XNN x nn => Encoding.op7XNN x nn
  | .op8XY0 x y => Encoding.op8XY0 x y
  | .op8XY1 x y => Encoding.op8XY1 x y
  | .op8XY2 x y => Encoding.op8XY2 x y
  | .op8XY3 x y => Encoding.op8XY3 x y
  | .op8XY4 x y => Encoding.op8XY4 x y
  | .op8XY5 x y => Encoding.op8XY5 x y
  | .op8XY6 x y => Encoding.op8XY6 x y
  | .op8XY7 x y => Encoding.op8XY7 x y
  | .op8XYE x y => Encoding.op8XYE x y
  | .op9XY0 x y => Encoding.op9XY0 x y
  | .opANNN nnn => Encoding.opANNN nnn
  | .opBNNN nnn => Encoding.opBNNN nnn
  | .opCXNN x nn => Encoding.opCXNN x nn
  | .opDXYN x y n => Encoding.opDXYN x y n
  | .opEX9E x => Encoding.opEX9E x
  | .opEXA1 x => Encoding.opEXA1 x
  | .opFX07 x => Encoding.opFX07 x
  | .opFX0A x => Encoding.opFX0A x
  | .opFX15 x => Encoding.opFX15 x
  | .opFX18 x => Encoding.opFX18 x
  | .opFX1E x => Encoding.opFX1E x
  | .opFX29 x => Encoding.opFX29 x
  | .opFX33 x => Encoding.opFX33 x
  | .opFX55 x => Encoding.opFX55 x
  | .opFX65 x => Encoding.opFX65 x

theorem opcodeMap_nodup : opcodeMap.Nodup :=
  List.Nodup.of_map OpcodeRow.pattern (by decide)

/-- Exactly one row accepts the word of an instruction, its own (R94). -/
theorem accepts_encode_iff (i : Instr) {k : Nat} {r : OpcodeRow} (hk : opcodeMap[k]? = some r) :
    r.accepts (encode i) = true ↔ k = i.rowIndex := by
  constructor
  · intro h
    obtain ⟨j, hj, hrow⟩ := encodedInRow_of_accepts (List.mem_of_getElem? hk) h
    have hij : j = i := Except.ok.inj <| calc
      .ok j = decode (encode j) := (decodeOfEncode j).symm
      _ = decode (encode i) := congrArg decode hj
      _ = .ok i := decodeOfEncode i
    rw [← hij]
    have hlt : k < opcodeMap.length := (List.getElem?_eq_some_iff.1 hk).1
    exact (List.getElem?_inj hlt opcodeMap_nodup).1 (hk.trans hrow.symm)
  · rintro rfl
    obtain ⟨r', hr', haccepts⟩ := encoding_statement i
    rwa [Option.some.inj (hk.symm.trans hr')]

theorem rowIndex_lt_length (i : Instr) : i.rowIndex < opcodeMap.length := by
  obtain ⟨_, hr, _⟩ := encoding_statement i
  exact (List.getElem?_eq_some_iff.1 hr).1

/-- Settles O3: by `decode_answers` a decoded word is the word of its instruction, which only that
instruction's row accepts; and a word some row accepts is an instruction's, so it decodes. -/
theorem decodeFollowsOpcodeMap : Obligations.DecodeFollowsOpcodeMap := by
  intro w
  have hw := decode_answers w
  split
  next i hd =>
    rw [hd] at hw
    subst hw
    exact ⟨rowIndex_lt_length i, fun k r hk => accepts_encode_iff i hk⟩
  next e hd =>
    rw [hd] at hw
    refine ⟨hw, fun r hr => Bool.eq_false_iff.2 fun h => ?_⟩
    obtain ⟨i, rfl, _⟩ := encodedInRow_of_accepts hr h
    cases hd.symm.trans (decodeOfEncode i)

end Sys2Proof.Laws
end

section
/-!
PROOFS of the family 40_cycle.md (spec/40_cycle.md R120 to R130): the stages of a ready step in their order, fetch,
decode, execute and tick, and the two outcomes that change nothing, the unknown word and the key wait.
-/

namespace Sys2Proof.Machine

/-! ### Fetch (R122) -/

/-- Settles O5: the fetched word is its two bytes, and the memory port reduces each address. -/
theorem fetchIsBigEndian : Obligations.FetchIsBigEndian := by
  intro s
  have hlow : port (s.pc + 1) = (s.pc.toNat + 1) % 4096 := port_add s.pc 1
  rw [State.fetch, wordOfBytes_toNat, State.readByte, State.readByte, hlow]
  rfl

/-! ### A ready step, by what the decoder answers (R120) -/

section
variable {s t : State}

theorem step_of_decoded {i : Instr} (hr : s.ready = true) (hi : decode s.fetch = .ok i) :
    step s = retire (exec i s) := by
  simp only [step, hr, hi, if_true]

theorem step_of_unknown {e : Reject} (hr : s.ready = true) (he : decode s.fetch = .error e) :
    step s = unknownWord s.fetch s := by
  simp only [step, hr, he, if_true]

theorem step_ne_refused_of_ready (hr : s.ready = true) (r : Refusal) : step s ≠ .refused r := by
  cases hd : decode s.fetch with
  | error e =>
    rw [step_of_unknown hr hd]
    nofun
  | ok i =>
    rw [step_of_decoded hr hd]
    cases hx : exec i s with
    | next t => nofun
    | fault f => nofun
    | refused q => exact absurd hx (exec_ne_refused i s q)

theorem step_report_ne_idle (h : step s = .next t) : t.report ≠ .idle := by
  obtain ⟨_, ⟨_, _, rfl⟩ | ⟨_, u, _, _, rfl⟩⟩ := step_eq_next h
  · nofun
  · split
    next hwait =>
      rw [hwait]
      nofun
    next => nofun

end

/-- Settles O6: `retire` is the stage after execute. -/
theorem stepRunsDecodedInstruction : Obligations.StepRunsDecodedInstruction := by
  intro s i hr hi
  rw [step_of_decoded hr hi]
  cases exec i s with
  | next t => rfl
  | fault f => rfl
  | refused r => rfl

/-- Settles O11: the step is not refused, and where it goes on the report is an outcome's and the engine stays
ready. -/
theorem readyStepHasAnOutcome : Obligations.ReadyStepHasAnOutcome := by
  intro s hr
  cases h : step s with
  | next t => exact .inl ⟨t, rfl, step_report_ne_idle h, (stepsNeverWriteKeys s t h).2⟩
  | fault f => exact .inr ⟨f, rfl⟩
  | refused r => exact absurd h (step_ne_refused_of_ready hr r)

/-- Settles O8: the unknown word is recorded in `report` alone, which the next fetch does not read. -/
theorem unknownWordChangesNothing : Obligations.UnknownWordChangesNothing := by
  intro s hr hunknown
  cases hd : decode s.fetch with
  | ok i => exact absurd hd (hunknown i)
  | error e =>
    exact ⟨{ s with report := .unknownOpcode s.fetch }, step_of_unknown hr hd, rfl, rfl,
      step_of_unknown hr hd⟩

/-! ### The key wait (R127) -/

theorem exec_FX0A_of_no_key (x : Reg) {s : State} (hkey : ∀ k : Key, s.key[k] = false) :
    exec (.opFX0A x) s = .next s.waitForKey := by
  simp only [exec, execFX0A, State.pressed_eq_nil.2 hkey]

theorem step_of_keyWait {x : Reg} {s : State} (hr : s.ready = true)
    (hi : decode s.fetch = .ok (.opFX0A x)) (hkey : ∀ k : Key, s.key[k] = false) :
    step s = .next s.waitForKey := by
  rw [step_of_decoded hr hi, exec_FX0A_of_no_key x hkey]
  rfl

/-- Settles O53: the wait is recorded in `report` alone, so the next step finds the same word and the same keys. -/
theorem keyWaitChangesNothing : Obligations.KeyWaitChangesNothing := by
  intro x s hr hi hkey
  exact ⟨s.waitForKey, step_of_keyWait hr hi hkey, rfl, rfl,
    step_of_keyWait hr hi hkey⟩

/-! ### The tick after a completed execute (R128, R130) -/

/-- The execute stage completes with the report `ok false`, or it is FX0A's wait. -/
theorem exec_completes_or_waits {i : Instr} {s t : State} (h : exec i s = .next t) :
    t.report = .ok false ∨ ∃ x, i = .opFX0A x ∧ ∀ k : Key, s.key[k] = false := by
  cases i
  case op00EE =>
    obtain ⟨_, rfl⟩ := exec_00EE_eq_next h
    exact .inl rfl
  case op2NNN =>
    obtain ⟨_, rfl⟩ := exec_2NNN_eq_next h
    exact .inl rfl
  case opFX0A x =>
    obtain ⟨hkey, _⟩ | ⟨_, _, rfl⟩ := exec_FX0A_eq_next h
    · exact .inr ⟨x, rfl, hkey⟩
    · exact .inl rfl
  all_goals
    obtain rfl := Host.Outcome.next.inj h
    exact .inl rfl

theorem step_of_completed {i : Instr} {s t : State} (hr : s.ready = true)
    (hi : decode s.fetch = .ok i) (h : exec i s = .next t) (hok : t.report = .ok false) :
    step s = .next t.tick := by
  rw [step_of_decoded hr hi, h]
  simp [retire, hok]

/-- Settles O7: an execute stage that does not wait reports `ok false`, so the tick runs on the state it left. -/
theorem completedStepTicksOnce : Obligations.CompletedStepTicksOnce := by
  intro s t i hr hi h hkey
  have hcompleted : t.report = .ok false := by
    obtain hok | ⟨x, hx, hnone⟩ := exec_completes_or_waits h
    · exact hok
    · obtain ⟨k, hk⟩ := hkey x hx
      exact absurd hk (Bool.eq_false_iff.1 (hnone k))
  refine ⟨t.tick, step_of_completed hr hi h hcompleted, countDown_toNat t.dt, countDown_toNat t.st,
    fun hst => ?_, fun hst => ?_, rfl⟩
  · rw [State.tick_report, hst]
    rfl
  · rw [State.tick_report, beq_false_of_ne hst]

/-! ### The next value of the pc (R124) -/

/-- The sequential kind, where nothing before it moved the pc. -/
theorem State.sequential_pc_toNat {s u : State} (h : u.pc = s.pc) :
    u.sequential.pc.toNat = (s.pc.toNat + 2) % 65536 :=
  h ▸ BitVec.toNat_add u.pc 2

/-- The skip kind, by the condition the flag `c` stands for. -/
theorem State.skipIf_pc_toNat (s : State) {c : Bool} {p : Prop} [Decidable p] (h : c = true ↔ p) :
    (s.skipIf c).pc.toNat = (s.pc.toNat + if p then 4 else 2) % 65536 := by
  rw [State.skipIf_pc]
  by_cases hp : p
  · rw [if_pos hp, if_pos (h.2 hp)]
    exact BitVec.toNat_add s.pc 4
  · rw [if_neg hp, if_neg (mt h.1 hp)]
    exact BitVec.toNat_add s.pc 2

/-- Settles O12: each instruction ends in `sequential`, `skipIf` or `finish` of its target, but for the key wait,
which leaves the pc alone. -/
theorem pcAfterExecute : Obligations.PcAfterExecute := by
  intro i s t h
  cases i
  case op00EE =>
    obtain ⟨hl, rfl⟩ := exec_00EE_eq_next h
    exact ⟨⟨s.sp.val - 1, by omega⟩, Nat.sub_add_cancel hl, BitVec.toNat_add _ 2⟩
  case op2NNN nnn =>
    obtain ⟨_, rfl⟩ := exec_2NNN_eq_next h
    exact address_toNat nnn
  case opFX0A =>
    obtain ⟨hnone, rfl⟩ | ⟨k, hk, rfl⟩ := exec_FX0A_eq_next h
    · exact ⟨fun ⟨k, hk⟩ => absurd hk (Bool.eq_false_iff.1 (hnone k)), fun _ => rfl⟩
    · exact ⟨fun _ => State.sequential_pc_toNat rfl,
        fun hnone => absurd hk (Bool.eq_false_iff.1 (hnone k))⟩
  all_goals obtain rfl := Host.Outcome.next.inj h
  case op1NNN nnn => exact address_toNat nnn
  case opBNNN nnn =>
    rw [State.finish_pc, BitVec.toNat_add, address_toNat, widen_toNat]
  case op3XNN | op5XY0 => exact State.skipIf_pc_toNat s beq_iff_eq
  case op4XNN | op9XY0 => exact State.skipIf_pc_toNat s bne_iff_ne
  case opEX9E => exact State.skipIf_pc_toNat s Iff.rfl
  case opEXA1 => exact State.skipIf_pc_toNat s (iff_of_eq (Bool.not_eq_true' _))
  case opFX33 | opFX55 =>
    exact State.sequential_pc_toNat (State.writeBytes_field State.pc (fun _ _ => rfl) ..)
  case opFX65 => exact State.sequential_pc_toNat (State.loadRegs_field State.pc (fun _ _ => rfl) ..)
  all_goals exact State.sequential_pc_toNat rfl

end Sys2Proof.Machine
end

section
/-!
PROOFS of the family 41_flow.md (spec/41_flow.md R140 to R143): the jumps, the call and the return, each with all
it leaves unchanged, and that a return undoes a call.
-/

namespace Sys2Proof.Machine

/-! ### The jumps (R141, R143) -/

/-- Settles O23: a jump finishes at the address NNN. -/
theorem jumpGoesToNNN : Obligations.JumpGoesToNNN := by
  intro nnn s
  exact ⟨s.finish (address nnn), rfl, address_toNat nnn, rfl⟩

/-- A 12-bit address and a byte add up below 65536, so the 16-bit sum does not wrap. -/
theorem address_add_widen_toNat (nnn : BitVec 12) (b : Byte) :
    (address nnn + widen b).toNat = nnn.toNat + b.toNat := by
  have hnnn := nnn.isLt
  have hb := b.isLt
  rw [BitVec.toNat_add, address_toNat, widen_toNat]
  omega

/-- Settles O24: a jump with offset finishes at the sum, which does not wrap. -/
theorem jumpOffsetAddsV0 : Obligations.JumpOffsetAddsV0 := by
  intro nnn s
  exact ⟨s.finish (address nnn + widen (s.getV 0)), rfl, address_add_widen_toNat nnn _, rfl⟩

/-! ### The call and the return (R140, R142) -/

/-- A call completes with `k` return addresses on the stack, `k` below 16. -/
theorem exec_2NNN_of_sp_eq (nnn : BitVec 12) {s : State} {k : Fin 16} (h : s.sp.val = k.val) :
    exec (.op2NNN nnn) s = .next
      (({ s with stack := s.stack.set k.val s.pc, sp := k.succ } : State).finish (address nnn)) := by
  have hlt : s.sp.val < 16 := h ▸ k.isLt
  simp only [exec, exec2NNN, State.push_of_lt s.pc hlt, h]
  rfl

/-- A return completes with `k + 1` return addresses on the stack. -/
theorem exec_00EE_of_sp_eq {s : State} {k : Fin 16} (h : s.sp.val = k.val + 1) :
    exec .op00EE s = .next (({ s with sp := k.castSucc } : State).finish (s.stack[k] + 2)) := by
  have hpos : 0 < s.sp.val := h ▸ Nat.succ_pos k.val
  have htop : s.sp.val - 1 = k.val := by omega
  simp only [exec, exec00EE, State.pop_of_pos hpos, htop]
  rfl

/-- Settles O25: the call sets entry `k` and no other. -/
theorem callPushesItsOwnAddress : Obligations.CallPushesItsOwnAddress := by
  intro nnn s k h
  have hother : ∀ j : Fin 16, j ≠ k → (s.stack.set k.val s.pc)[j] = s.stack[j] := fun j hj =>
    Vector.getElem_set_ne k.isLt j.isLt (Fin.val_ne_of_ne hj.symm)
  exact ⟨_, exec_2NNN_of_sp_eq nnn h, Vector.getElem_set_self k.isLt, rfl, address_toNat nnn,
    hother, rfl⟩

/-- Settles O26: the return reads entry `k` and moves the pointer only. -/
theorem returnGoesTwoPastTheCall : Obligations.ReturnGoesTwoPastTheCall := by
  intro s k h
  exact ⟨_, exec_00EE_of_sp_eq h, rfl, rfl, rfl⟩

/-- Settles O27: the call left its own address in the entry that the return goes two past. -/
theorem returnUndoesCall : Obligations.ReturnUndoesCall := by
  intro nnn s t u hcall hstack hsp
  obtain ⟨hlt, _⟩ := exec_2NNN_eq_next hcall
  let k : Fin 16 := ⟨s.sp.val, hlt⟩
  obtain ⟨t', ht', hentry, hcount, _⟩ := callPushesItsOwnAddress nnn s k rfl
  obtain rfl : t = t' := Host.Outcome.next.inj (hcall.symm.trans ht')
  obtain ⟨w, hw, hpc, hback, _⟩ := returnGoesTwoPastTheCall u k (hsp ▸ hcount)
  refine ⟨w, hw, ?_, Fin.ext hback⟩
  rw [hpc, hstack, hentry]

end Sys2Proof.Machine
end

section
/-!
PROOFS of the family 42_skip.md (spec/42_skip.md R150 to R154): the conditional skips on registers.
-/

namespace Sys2Proof.Machine

/-! ### What a skip writes (R150) -/

/-- "A skip writes nothing but `pc`" (R150). -/
theorem State.skipIf_arch (s : State) (c : Bool) :
    (s.skipIf c).arch = ({ s with pc := (s.skipIf c).pc } : State).arch := rfl

/-- The skip kind, by the condition under which it does not skip. -/
theorem State.skipIf_pc_toNat_of_iff_not (s : State) {c : Bool} {p : Prop} [Decidable p]
    (h : c = true ↔ ¬p) : (s.skipIf c).pc.toNat = (s.pc.toNat + if p then 2 else 4) % 65536 := by
  rw [State.skipIf_pc_toNat s h, ite_not]

/-! ### The four skips (R151 to R154) -/

/-- Settles O29: each of the four is a `skipIf`, on an equality or on a difference. -/
theorem registerSkips : Obligations.RegisterSkips := by
  intro x y nn s
  refine ⟨⟨s.skipIf (s.getV x == nn), rfl, ?_, s.skipIf_arch _⟩,
    ⟨s.skipIf (s.getV x != nn), rfl, ?_, s.skipIf_arch _⟩,
    ⟨s.skipIf (s.getV x == s.getV y), rfl, ?_, s.skipIf_arch _⟩,
    ⟨s.skipIf (s.getV x != s.getV y), rfl, ?_, s.skipIf_arch _⟩⟩
  · exact s.skipIf_pc_toNat beq_iff_eq
  · exact s.skipIf_pc_toNat_of_iff_not bne_iff_ne
  · exact s.skipIf_pc_toNat beq_iff_eq
  · exact s.skipIf_pc_toNat_of_iff_not bne_iff_ne

end Sys2Proof.Machine
end

section
/-!
PROOFS of the family 43_alu.md (spec/43_alu.md R160 to R173): load, arithmetic, logic, shift and random, each with
all it leaves unchanged, and VF written last.
-/

namespace Sys2Proof.Machine

/-! ### The two ways a result reaches VX -/

section
variable {i : Instr} {s : State} {x : Reg} {b : Byte}

/-- An instruction whose execute stage writes `b` to VX, and no flag. -/
theorem completes_of_setV (P : Byte → Prop) (h : exec i s = .next (s.setV x b).sequential) (hb : P b) :
    ∃ t, exec i s = .next t ∧ P (t.getV x) ∧ (∀ r, r ≠ x → t.getV r = s.getV r) ∧
      t.arch = ({ s with v := t.v, pc := s.pc + 2 } : State).arch := by
  have hvx : (s.setV x b).sequential.getV x = b := State.getV_setV_self s x b
  exact ⟨_, h, hvx.symm ▸ hb, fun _ => State.getV_setV_ne s b, rfl⟩

/-- An instruction whose execute stage writes `b` to VX and then `c` to VF (R24, D9), in numbers: `m` in VX, where
that is not VF, and `n` in VF. -/
theorem completes_of_setFlagged {c : Bool} {m n : Nat}
    (h : exec i s = .next (s.setFlagged x b c).sequential) (hm : b.toNat = m)
    (hn : (flagByte c).toNat = n) :
    ∃ t, exec i s = .next t ∧ (x ≠ regF → (t.getV x).toNat = m) ∧ (t.getV regF).toNat = n ∧
      (∀ r, r ≠ x → r ≠ regF → t.getV r = s.getV r) ∧
      t.arch = ({ s with v := t.v, pc := s.pc + 2 } : State).arch := by
  refine ⟨_, h, fun hx => ?_, ?_, fun _ => State.getV_setFlagged_ne s b c, rfl⟩
  · rw [State.getV_sequential, State.getV_setFlagged_result s b c hx, hm]
  · rw [State.getV_sequential, State.getV_setFlagged_flag, hn]

end

/-! ### Load, move, add immediate and logic (R161 to R166) -/

/-- Settles O30: each of the two ends in one register write. -/
theorem loadAndMove : Obligations.LoadAndMove := by
  intro x y nn s
  exact ⟨completes_of_setV (· = nn) rfl rfl, completes_of_setV (· = s.getV y) rfl rfl⟩

/-- Settles O31: the sum of bytes is the sum modulo 256. -/
theorem addImmediateWraps : Obligations.AddImmediateWraps := by
  intro x nn s
  exact completes_of_setV (·.toNat = ((s.getV x).toNat + nn.toNat) % 256) rfl (BitVec.toNat_add _ nn)

/-- Settles O32: each of the three ends in one register write, of the bitwise operation on VX and VY. -/
theorem logicIsBitwise : Obligations.LogicIsBitwise := by
  intro x y s
  exact
    ⟨completes_of_setV (fun b => ∀ k, b.getLsbD k = ((s.getV x).getLsbD k || (s.getV y).getLsbD k))
        rfl fun _ => BitVec.getLsbD_or,
      completes_of_setV (fun b => ∀ k, b.getLsbD k = ((s.getV x).getLsbD k && (s.getV y).getLsbD k))
        rfl fun _ => BitVec.getLsbD_and,
      completes_of_setV (fun b => ∀ k, b.getLsbD k = ((s.getV x).getLsbD k ^^ (s.getV y).getLsbD k))
        rfl fun _ => BitVec.getLsbD_xor⟩

/-! ### The results and the flags as numbers -/

theorem byte_sub_toNat (a b : Byte) : (a - b).toNat = (a.toNat + 256 - b.toNat) % 256 := by
  have hb := b.isLt
  rw [BitVec.toNat_sub]
  omega

theorem byte_shiftRight_one_toNat (a : Byte) : (a >>> 1).toNat = a.toNat / 2 := by
  rw [BitVec.toNat_ushiftRight, Nat.shiftRight_eq_div_pow, pow_one]

theorem byte_shiftLeft_one_toNat (a : Byte) : (a <<< 1).toNat = a.toNat * 2 % 256 := by
  rw [BitVec.toNat_shiftLeft, Nat.shiftLeft_eq, pow_one]

theorem flagByte_toNat (c : Bool) : (flagByte c).toNat = c.toNat := by
  cases c
  · rfl
  · rfl

theorem flagByte_decide_toNat (p : Prop) [Decidable p] :
    (flagByte (decide p)).toNat = if p then 1 else 0 := by
  rw [flagByte_toNat]
  by_cases hp : p
  · rw [decide_eq_true hp, if_pos hp, Bool.toNat_true]
  · rw [decide_eq_false hp, if_neg hp, Bool.toNat_false]

theorem flagByte_noBorrow_toNat (a b : Byte) :
    (flagByte (noBorrow a b)).toNat = if b.toNat > a.toNat then 0 else 1 := by
  rw [noBorrow, ← decide_not, flagByte_decide_toNat, ite_not]

/-- Bit `k` of a byte, as the number its flag holds. -/
theorem flagByte_getLsbD_toNat (a : Byte) (k : Nat) :
    (flagByte (a.getLsbD k)).toNat = a.toNat / 2 ^ k % 2 :=
  (flagByte_toNat _).trans (Nat.toNat_testBit a.toNat k)

theorem flagByte_lowBit_toNat (a : Byte) : (flagByte (lowBit a)).toNat = a.toNat % 2 := by
  rw [lowBit, flagByte_getLsbD_toNat, pow_zero, Nat.div_one]

theorem flagByte_highBit_toNat (a : Byte) : (flagByte (highBit a)).toNat = a.toNat / 128 := by
  have ha := a.isLt
  rw [highBit, flagByte_getLsbD_toNat]
  omega

/-! ### Add, subtract and shift with the flag (R167 to R171) -/

/-- Settles O33: the carry is the flag of a sum that passes 255. -/
theorem addSetsCarry : Obligations.AddSetsCarry := by
  intro x y s
  exact completes_of_setFlagged rfl (BitVec.toNat_add _ _) (flagByte_decide_toNat _)

/-- Settles O34: the difference of bytes, and the flag that is 0 on a borrow. -/
theorem subtractSetsNoBorrow : Obligations.SubtractSetsNoBorrow := by
  intro x y s
  exact completes_of_setFlagged rfl (byte_sub_toNat _ _) (flagByte_noBorrow_toNat _ _)

/-- Settles O35: the difference the other way round, and the flag of the old VX being the greater (D30). -/
theorem reverseSubtractSetsGreater : Obligations.ReverseSubtractSetsGreater := by
  intro x y s
  exact completes_of_setFlagged rfl (byte_sub_toNat _ _) (flagByte_decide_toNat _)

/-- Settles O36: each shift writes VX and then the bit that left it, and reads no Y. -/
theorem shiftsMoveVXByOne : Obligations.ShiftsMoveVXByOne := by
  intro x y s
  exact ⟨completes_of_setFlagged rfl (byte_shiftRight_one_toNat _) (flagByte_lowBit_toNat _),
    completes_of_setFlagged rfl (byte_shiftLeft_one_toNat _) (flagByte_highBit_toNat _)⟩

/-! ### The random byte (R172) -/

/-- Masking leaves no bit that the mask has not. -/
theorem byte_and_and_not (b nn : Byte) : b &&& nn &&& ~~~nn = 0 := by
  rw [BitVec.and_assoc, BitVec.and_not_self]
  exact BitVec.and_zero

/-- Settles O37: the draw advances the counter of free values, which is none of the spec's state, and then VX is
written with the masked byte. -/
theorem randomByteIsMasked : Obligations.RandomByteIsMasked := by
  intro x nn s
  let drawn : State := { s with free := s.free + 1 }
  let b := Config.randomByte s.free &&& nn
  have hvx : (drawn.setV x b).sequential.getV x = b := State.getV_setV_self drawn x b
  exact ⟨(drawn.setV x b).sequential, rfl, hvx, hvx.symm ▸ byte_and_and_not _ nn,
    fun _ => State.getV_setV_ne drawn b, rfl, rfl⟩

end Sys2Proof.Machine
end

section
/-!
PROOFS of the family 44_index_memory.md (spec/44_index_memory.md R180 to R187): the index register, and the
transfers between registers and memory, each with all it leaves unchanged.
-/

namespace Sys2Proof.Machine

/-! ### The values of I (R180, R182, R183, R185, R186) -/

/-- Five times a byte is below 65536, so FX29's product does not wrap. -/
theorem widen_mul_five_toNat (b : Byte) : (widen b * 5).toNat = b.toNat * 5 := by
  have hb := b.isLt
  have hfive : (5 : Word).toNat = 5 := rfl
  rw [BitVec.toNat_mul, widen_toNat, hfive]
  omega

theorem word_add_widen_toNat (w : Word) (b : Byte) :
    (w + widen b).toNat = (w.toNat + b.toNat) % 65536 := by
  rw [BitVec.toNat_add, widen_toNat]

/-- I past the registers V0 to VX. -/
theorem word_add_reg_succ_toNat (w : Word) (x : Reg) :
    (w + BitVec.ofNat 16 (x.val + 1)).toNat = (w.toNat + x.val + 1) % 65536 := by
  rw [BitVec.toNat_add, BitVec.toNat_ofNat, Nat.add_mod_mod, Nat.add_assoc]

/-- Settles O38: a 12-bit address is the same number as a word. -/
theorem loadIndexImmediate : Obligations.LoadIndexImmediate := by
  intro nnn s
  exact ⟨(s.setIndex (address nnn)).sequential, rfl, address_toNat nnn, rfl⟩

/-- Settles O39: the product does not wrap. -/
theorem glyphAddressIsFiveTimes : Obligations.GlyphAddressIsFiveTimes := by
  intro x s
  exact ⟨(s.setIndex (widen (s.getV x) * 5)).sequential, rfl, widen_mul_five_toNat _, rfl⟩

/-- Settles O40: VF, written last, is the flag of the wrapped sum. -/
theorem addToIndexFlagsAboveFFF : Obligations.AddToIndexFlagsAboveFFF := by
  intro x s
  let sum := s.index + widen (s.getV x)
  have hsum : sum.toNat = (s.index.toNat + (s.getV x).toNat) % 65536 := word_add_widen_toNat _ _
  refine ⟨((s.setIndex sum).setVF (aboveFFF sum)).sequential, rfl, hsum, ?flag,
    fun _ => State.getV_setVF_ne _ _, rfl⟩
  case flag =>
    rw [State.getV_sequential, State.getV_setVF_flag, aboveFFF, flagByte_decide_toNat, hsum]

/-! ### Storing (R184, R185) -/

/-- Settles O41: the three stored bytes are the digits, and no other byte is stored. -/
theorem storeDecimalDigits : Obligations.StoreDecimalDigits := by
  intro x s hs
  let t := (s.writeBytes s.index (decimalDigits (s.getV x))).sequential
  have hmem : t.mem = (s.withStores (.opFX33 x)).mem := rfl
  refine ⟨t, rfl, ?hundreds, readByte_of_stored_digit hmem hs 1 rfl, ?ones,
    fun a h0 h1 h2 => ?others, ?frame⟩
  case hundreds =>
    have hbyte := (s.getV x).isLt
    have h : (t.readByte s.index).toNat = (s.getV x).toNat / 100 % 10 :=
      readByte_of_stored_digit hmem hs 0 (congrArg port (BitVec.add_zero s.index))
    omega
  case ones =>
    have h : (t.readByte (s.index + 2)).toNat = (s.getV x).toNat / 1 % 10 :=
      readByte_of_stored_digit hmem hs 2 rfl
    rwa [Nat.div_one] at h
  case others =>
    apply readByte_of_not_stored hmem
    simp only [storedAddresses, List.forall_mem_cons]
    exact ⟨h0.symm, h1.symm, h2.symm, nofun⟩
  case frame =>
    show (s.writeBytes _ _).sequential.arch = _
    rw [State.writeBytes_eq]
    rfl

/-- Settles O42: each stored byte is its register, and no other byte is stored. -/
theorem storeRegisters : Obligations.StoreRegisters := by
  intro x s hs
  let stored := s.writeBytes s.index ((regsUpTo x).map s.getV)
  let t := (stored.setIndex (s.index + BitVec.ofNat 16 (x.val + 1))).sequential
  have hmem : t.mem = (s.withStores (.opFX55 x)).mem := rfl
  refine ⟨t, rfl, fun r hr => readByte_of_stored_reg hmem hs hr rfl, fun a ha => ?others,
    word_add_reg_succ_toNat s.index x, ?frame⟩
  case others =>
    apply readByte_of_not_stored hmem
    exact List.forall_mem_map.2 fun r hr => ha r (mem_regsUpTo.1 hr)
  case frame =>
    show ((s.writeBytes _ _).setIndex _).sequential.arch = _
    rw [State.writeBytes_eq]
    rfl

/-! ### Loading (R186) -/

theorem State.getV_loadRegs_of_mem (s : State) {rs : List Reg} {r : Reg} (h : r ∈ rs) :
    (s.loadRegs rs).getV r = s.readByte (s.indexed r) := by
  rw [State.loadRegs, State.getV_loadRegs, if_pos h]

/-- Settles O43: each listed register is loaded from its own address, and no other register is. -/
theorem loadRegisters : Obligations.LoadRegisters := by
  intro x s
  let t := ((s.loadRegs (regsUpTo x)).setIndex (s.index + BitVec.ofNat 16 (x.val + 1))).sequential
  refine ⟨t, rfl, fun r hr => s.getV_loadRegs_of_mem (mem_regsUpTo.2 hr),
    fun r hr => s.getV_loadRegs_of_notMem (mt mem_regsUpTo.1 hr),
    word_add_reg_succ_toNat s.index x, ?frame⟩
  case frame =>
    show ((State.loadRegs _ _).setIndex _).sequential.arch = _
    unfold State.loadRegs
    rw [State.loadRegs_eq]
    rfl

/-- Settles O44: with I where it was, the load reads each register from the address the store put it at. -/
theorem storeThenLoadRestores : Obligations.StoreThenLoadRestores := by
  intro x s t u hs hstore hmem hindex
  obtain ⟨w, hload, hloaded, _⟩ := loadRegisters x u
  refine ⟨w, hload, fun r hr => ?_⟩
  have hindexed : u.indexed r = s.indexed r := congrArg (· + BitVec.ofNat 16 r.val) hindex
  calc w.getV r = u.readByte (u.indexed r) := hloaded r hr
    _ = u.readByte (s.indexed r) := by rw [hindexed]
    _ = s.getV r := readByte_of_stored_reg (hmem.trans (exec_mem hstore)) hs hr rfl

end Sys2Proof.Machine
end

section
/-!
PROOFS of the family 45_display.md (spec/45_display.md R200 to R207): clearing the screen, the cells a sprite
targets, and drawing as XOR, once and twice.
-/

namespace Sys2Proof.Machine

/-! ### Clear (R201) -/

/-- Settles O46: the new screen is all zeros. -/
theorem clearScreen : Obligations.ClearScreen := by
  intro s
  let t := ({ s with fb := Vector.replicate 32 0, fbChanged := true } : State).sequential
  exact ⟨t, rfl, Screen.cell_replicate_zero, rfl, rfl⟩

/-! ### The cell a sprite pixel targets (R203, R205) -/

theorem spriteLine_val (vy : Byte) (row : Fin 16) :
    (spriteLine vy row).val = if vy.toNat + row.val ≥ 32 then row.val else vy.toNat + row.val := by
  unfold spriteLine
  split
  · rfl
  · rfl

theorem spriteColumn_val (vx : Byte) (col : Fin 8) :
    (spriteColumn vx col).val = if vx.toNat + col.val ≥ 64 then col.val else vx.toNat + col.val := by
  unfold spriteColumn
  split
  · rfl
  · rfl

/-- Settles O47: the model's cell is already 64 times the line plus the column, and each of the two has its own wrap. -/
theorem spriteCellFormula : Obligations.SpriteCellFormula := by
  intro vx vy row col
  rw [← spriteLine_val, ← spriteColumn_val]
  rfl

/-- The wrap merges no two offsets below half the size: an offset that wraps is below half, so its start is above
half, and no plain sum from that start comes down to it (D17). -/
theorem offset_eq_of_wrapped_eq {start size a b : Nat} (ha : 2 * a < size) (hb : 2 * b < size)
    (h : (if start + a ≥ size then a else start + a) = if start + b ≥ size then b else start + b) :
    a = b := by
  split at h <;> split at h <;> omega

theorem spriteLine_injective (vy : Byte) : Function.Injective (spriteLine vy) := by
  intro row row' h
  have hval := congrArg Fin.val h
  rw [spriteLine_val, spriteLine_val] at hval
  exact Fin.ext (offset_eq_of_wrapped_eq (by omega) (by omega) hval)

theorem spriteColumn_injective (vx : Byte) : Function.Injective (spriteColumn vx) := by
  intro col col' h
  have hval := congrArg Fin.val h
  rw [spriteColumn_val, spriteColumn_val] at hval
  exact Fin.ext (offset_eq_of_wrapped_eq (by omega) (by omega) hval)

/-- Settles O48: a cell determines its line and its column, and each of them the pixel's place in the sprite. -/
theorem noCellTargetedTwice : Obligations.NoCellTargetedTwice := by
  intro vx vy row row' col col' h
  have hcell : (spriteLine vy row).val * 64 + (spriteColumn vx col).val =
      (spriteLine vy row').val * 64 + (spriteColumn vx col').val := congrArg Fin.val h
  have hline : spriteLine vy row = spriteLine vy row' := Fin.ext (by omega)
  have hcolumn : spriteColumn vx col = spriteColumn vx col' := Fin.ext (by omega)
  exact ⟨spriteLine_injective vy hline, spriteColumn_injective vx hcolumn⟩

/-! ### The cells of a whole sprite (R202) -/

theorem firstNumbers_nodup (n : Nat) : (firstNumbers n).Nodup :=
  (List.nodup_finRange 16).sublist (List.take_sublist n _)

theorem State.rowCells_nodup (s : State) (vx vy : Byte) (row : Fin 16) :
    (s.rowCells vx vy row).Nodup :=
  ((List.nodup_finRange 8).filter _).map fun _ _ h => (noCellTargetedTwice _ _ _ _ _ _ h).2

/-- "Within one DXYN no cell is targeted twice" (R205), of the list of cells that a draw plots. -/
theorem State.spriteCells_nodup (s : State) (vx vy : Byte) (n : BitVec 4) :
    (s.spriteCells vx vy n).Nodup := by
  refine List.nodup_flatMap.2 ⟨fun row _ => s.rowCells_nodup vx vy row, ?_⟩
  refine (firstNumbers_nodup n.toNat).imp fun {row row'} hne c hc hc' => ?_
  obtain ⟨col, -, h⟩ := State.mem_rowCells.1 hc
  obtain ⟨col', -, h'⟩ := State.mem_rowCells.1 hc'
  exact hne (noCellTargetedTwice _ _ _ _ _ _ (h.trans h'.symm)).1

/-- A sprite is a matter of I and memory alone. -/
theorem State.spriteTargets_of_eq {s t : State} (hindex : t.index = s.index) (hmem : t.mem = s.mem)
    {vx vy : Byte} {n : BitVec 4} {c : Fin 2048} :
    t.SpriteTargets vx vy n c ↔ s.SpriteTargets vx vy n c := by
  simp only [State.SpriteTargets, State.spriteBit, State.readByte, State.indexed, hindex, hmem]

/-- Settles O60: the 16-bit sum of I and the row, reduced at the memory port, is the reduced sum. -/
theorem spriteBitsAreMemoryBits : Obligations.SpriteBitsAreMemoryBits := by
  intro s row col
  rw [← port_add]
  rfl

/-! ### One draw (R202, R205) -/

/-- The screen and the collision flag that a draw of the `n`-row sprite at I leaves. -/
def State.drawn (s : State) (vx vy : Byte) (n : BitVec 4) : Screen × Bool :=
  (s.spriteCells vx vy n).foldl plot (s.fb, false)

theorem exec_DXYN (x y : Reg) (n : BitVec 4) (s : State) :
    exec (.opDXYN x y n) s =
      .next ({ s with fb := (s.drawn (s.getV x) (s.getV y) n).1, fbChanged := true }.setVF
        (s.drawn (s.getV x) (s.getV y) n).2).sequential := rfl

section
variable (s : State) (vx vy : Byte) (n : BitVec 4)

theorem State.cell_drawn_of_targets {c : Fin 2048} (h : s.SpriteTargets vx vy n c) :
    Screen.cell (s.drawn vx vy n).1 c = !Screen.cell s.fb c := by
  have hcount : (s.spriteCells vx vy n).count c = 1 :=
    List.count_eq_one_of_mem (s.spriteCells_nodup vx vy n) (State.mem_spriteCells.2 h)
  simp [State.drawn, cell_foldl_plot, hcount]

theorem State.cell_drawn_of_not_targets {c : Fin 2048} (h : ¬s.SpriteTargets vx vy n c) :
    Screen.cell (s.drawn vx vy n).1 c = Screen.cell s.fb c := by
  have hcount : (s.spriteCells vx vy n).count c = 0 :=
    List.count_eq_zero_of_not_mem (mt State.mem_spriteCells.1 h)
  simp [State.drawn, cell_foldl_plot, hcount]

theorem State.collision_drawn :
    (s.drawn vx vy n).2 = true ↔ ∃ c, s.SpriteTargets vx vy n c ∧ Screen.cell s.fb c = true := by
  rw [State.drawn, collision_foldl_plot _ _ (s.spriteCells_nodup vx vy n), Bool.false_or,
    List.any_eq_true]
  simp only [State.mem_spriteCells]

end

/-- VF after a flag write, by the condition the flag stands for. -/
theorem State.getV_regF_setVF_of_iff (s : State) {f : Bool} {p : Prop} (h : f = true ↔ p) :
    (p → (s.setVF f).sequential.getV regF = 1) ∧ (¬p → (s.setVF f).sequential.getV regF = 0) := by
  rw [State.getV_sequential, State.getV_setVF_flag, ← h]
  exact ⟨fun hf => by rw [hf]; rfl, fun hf => by rw [Bool.eq_false_of_not_eq_true hf]; rfl⟩

/-- Settles O49: the screen and the flag are those of `State.drawn`, and nothing but them, VF and `pc` is written. -/
theorem drawXorsTheSprite : Obligations.DrawXorsTheSprite := by
  intro x y n s
  obtain ⟨hset, hclear⟩ := State.getV_regF_setVF_of_iff
    { s with fb := (s.drawn (s.getV x) (s.getV y) n).1, fbChanged := true }
    (s.collision_drawn (s.getV x) (s.getV y) n)
  exact ⟨_, exec_DXYN x y n s, fun _ => s.cell_drawn_of_targets _ _ n,
    fun _ => s.cell_drawn_of_not_targets _ _ n, hset, hclear,
    fun _ => State.getV_setVF_ne _ _, rfl⟩

/-! ### Two draws (R206) -/

section
variable {s t : State} {vx vy : Byte} {n : BitVec 4}
  (hindex : t.index = s.index) (hmem : t.mem = s.mem) (hfb : t.fb = (s.drawn vx vy n).1)
include hindex hmem hfb

/-- The second draw inverts the cells that the first one inverted. -/
theorem State.drawn_twice_screen : (t.drawn vx vy n).1 = s.fb := by
  apply Screen.ext_cell
  intro c
  by_cases h : s.SpriteTargets vx vy n c
  · rw [t.cell_drawn_of_targets vx vy n ((State.spriteTargets_of_eq hindex hmem).2 h), hfb,
      s.cell_drawn_of_targets vx vy n h, Bool.not_not]
  · rw [t.cell_drawn_of_not_targets vx vy n (mt (State.spriteTargets_of_eq hindex hmem).1 h), hfb,
      s.cell_drawn_of_not_targets vx vy n h]

/-- The second draw meets a 1 where the first one met a 0. -/
theorem State.drawn_twice_collision :
    (t.drawn vx vy n).2 = true ↔ ∃ c, s.SpriteTargets vx vy n c ∧ Screen.cell s.fb c = false := by
  rw [t.collision_drawn vx vy n]
  refine exists_congr fun c => ?_
  rw [State.spriteTargets_of_eq hindex hmem, hfb]
  refine and_congr_right fun h => ?_
  rw [s.cell_drawn_of_targets vx vy n h, Bool.not_eq_true']

end

/-- Settles O50: the first draw leaves I and memory, hence the sprite, and the coordinates are given to be the same. -/
theorem drawingTwiceRestores : Obligations.DrawingTwiceRestores := by
  intro x y n s t h hx hy
  obtain rfl := Host.Outcome.next.inj h
  refine ⟨_, exec_DXYN x y n _, ?_⟩
  rw [hx, hy]
  exact ⟨State.drawn_twice_screen rfl rfl rfl,
    State.getV_regF_setVF_of_iff _ (State.drawn_twice_collision rfl rfl rfl)⟩

end Sys2Proof.Machine
end

section
/-!
PROOFS of the family 46_keys_timers.md (spec/46_keys_timers.md R220 to R226): the skips on a key, reading a pressed
key, and the moves between a register and a timer.
-/

namespace Sys2Proof.Machine

/-! ### The skips on a key (R220 to R222) -/

/-- Settles O51: the key numbered VX mod 16 is the one both skips test. -/
theorem keySkips : Obligations.KeySkips := by
  intro x s k hk
  obtain rfl : k = keyOf (s.getV x) := Fin.ext (hk.trans (keyOf_val _).symm)
  exact ⟨⟨s.skipIf s.key[keyOf (s.getV x)], rfl, s.skipIf_pc_toNat Iff.rfl, s.skipIf_arch _⟩,
    ⟨s.skipIf !s.key[keyOf (s.getV x)], rfl, s.skipIf_pc_toNat_of_iff_not Bool.not_iff_not,
      s.skipIf_arch _⟩⟩

/-! ### Reading a key (R223) -/

theorem keyByte_toNat (k : Key) : (keyByte k).toNat = k.val :=
  (BitVec.toNat_ofNat k.val 8).trans (Nat.mod_eq_of_lt (k.isLt.trans (by decide)))

/-- FX0A with a key pressed does not wait; what it reads is in the set `P` of R223, whatever the choice (D14). -/
theorem exec_FX0A_of_key (x : Reg) {s : State} {k : Key} (hk : s.key[k] = true) :
    ∃ j : Key, s.key[j] = true ∧ exec (.opFX0A x) s = .next (s.setV x (keyByte j)).sequential := by
  cases hp : s.pressed with
  | nil => exact absurd hk (Bool.eq_false_iff.1 (State.pressed_eq_nil.1 hp k))
  | cons p ps =>
    have hmem : keyPick p ps ∈ s.pressed := hp ▸ keyPick_mem p ps
    exact ⟨keyPick p ps, State.mem_pressed.1 hmem, by simp only [exec, execFX0A, hp]⟩

/-- Settles O52: with a key pressed FX0A ends in one register write, of a pressed key's number. -/
theorem keyReadReportsAPressedKey : Obligations.KeyReadReportsAPressedKey := by
  intro x s k hk
  obtain ⟨j, hj, hexec⟩ := exec_FX0A_of_key x hk
  obtain ⟨t, ht, hvx, hothers, hframe⟩ := completes_of_setV (·.toNat = j.val) hexec (keyByte_toNat j)
  exact ⟨t, j, ht, hj, hvx, hothers, hframe⟩

/-! ### The timers (R224 to R226) -/

/-- Settles O54: FX07 ends in one register write; FX15 and FX18 write one timer and go on. -/
theorem timerMoves : Obligations.TimerMoves := by
  intro x s
  exact ⟨completes_of_setV (· = s.dt) rfl rfl,
    ⟨({ s with dt := s.getV x } : State).sequential, rfl, rfl⟩,
    ⟨({ s with st := s.getV x } : State).sequential, rfl, rfl⟩⟩

end Sys2Proof.Machine
end

section
/-!
PROOFS of the family 49_host_interface.md (spec/49_host_interface.md R240 to R251): when a step is admitted, what each
host write leaves alone, and that every operation of the host keeps memory in canonical form.
-/

namespace Sys2Proof.Machine

/-! ### Admission (R242) -/

theorem step_of_not_ready {s : State} (hr : s.ready = false) : step s = .refused .notReady := by
  simp [step, hr]

/-- Settles O9: a step that is not ready is refused, and a ready one never is (`step_ne_refused_of_ready`). -/
theorem stepRefusedExactlyWhenNotReady : Obligations.StepRefusedExactlyWhenNotReady := by
  intro s
  cases hr : s.ready with
  | true =>
    exact ⟨⟨fun h => absurd h (step_ne_refused_of_ready hr _), nofun⟩,
      fun r h => absurd h (step_ne_refused_of_ready hr r)⟩
  | false =>
    exact ⟨⟨fun _ => rfl, fun _ => step_of_not_ready hr⟩,
      fun r h => (Host.Outcome.refused.inj ((step_of_not_ready hr).symm.trans h)).symm⟩

/-! ### Writes of one piece of state (R244, R245, R247) -/

theorem State.writeKey_key_self (s : State) (i : Key) (b : Bool) : (s.writeKey i b).key[i] = b :=
  Vector.getElem_set_self i.isLt

theorem State.writeKey_key_ne (s : State) {i k : Key} (b : Bool) (h : k ≠ i) :
    (s.writeKey i b).key[k] = s.key[k] :=
  Vector.getElem_set_ne i.isLt k.isLt fun e => h (Fin.ext e.symm)

/-- Settles O59: a key write is the one write of a single element; the others replace a whole field. -/
theorem hostWritesOnlyItsOwn : Obligations.HostWritesOnlyItsOwn := by
  intro s i b w d
  exact ⟨⟨s.writeKey i b, rfl, s.writeKey_key_self i b, fun _ => s.writeKey_key_ne b, rfl⟩,
    rfl, rfl, rfl, rfl⟩

/-! ### The canonical form under every operation (R240, R248) -/

/-- Whatever a failed reset or power-on leaves, it is held in canonical form (D21, log 9). -/
theorem State.lostAt_inv (n : Nat) : (State.lostAt n).Inv := Memory.canon_wf _

/-- A reset, failed or not, reaches the form from any state: a ROM that fits ends at 4096 (R40). -/
theorem act_reset_inv {rom : List Byte} {s t : State} (h : act (.reset rom) s = .next t) : t.Inv := by
  by_cases hrom : rom.length ≤ 3584
  · rw [act, resetRom_of_le s hrom] at h
    obtain rfl := Host.Outcome.next.inj h
    exact Memory.writeRange_wf rom (by omega) rfl
  · rw [act, resetRom_of_gt s (Nat.lt_of_not_le hrom)] at h
    obtain rfl := Host.Outcome.next.inj h
    exact State.lostAt_inv s.free

/-- Settles O58: a reset establishes the form, a step keeps it (O21), and the other operations do not write
memory. -/
theorem hostMovesKeepCanonicalMemory : Obligations.HostMovesKeepCanonicalMemory := by
  intro m s t hs h
  cases m with
  | reset rom => exact act_reset_inv h
  | step => exact stepKeepsCanonicalMemory s t hs h
  | writeKey | ackChanged | pokePc | pokeDT | pokeST =>
    obtain rfl := Host.Outcome.next.inj h
    exact State.inv_of_mem_eq rfl hs

end Sys2Proof.Machine
end

section
/-!
PROOFS of the family 60_exceptions.md (spec/60_exceptions.md R274, R275): which steps end in a stack fault.
-/

namespace Sys2Proof.Machine

/-! ### The execute stage (R274) -/

theorem exec_2NNN_eq_fault {nnn : BitVec 12} {s : State} {f : Fault} :
    exec (.op2NNN nnn) s = .fault f ↔ s.sp = 16 ∧ f = .stackOverflow := by
  rw [← State.push_eq_none (w := s.pc)]
  cases hpush : s.push s.pc with
  | none => simp [exec, exec2NNN, hpush, eq_comm]
  | some t => simp [exec, exec2NNN, hpush]

theorem exec_00EE_eq_fault {s : State} {f : Fault} :
    exec .op00EE s = .fault f ↔ s.sp = 0 ∧ f = .stackUnderflow := by
  rw [← State.pop_eq_none]
  cases hpop : s.pop with
  | none => simp [exec, exec00EE, hpop, eq_comm]
  | some p => simp [exec, exec00EE, hpop]

/-- Every way the execute stage can fault: no instruction but the call and the return does. -/
theorem exec_eq_fault {i : Instr} {s : State} {f : Fault} (h : exec i s = .fault f) :
    (∃ nnn, i = .op2NNN nnn ∧ s.sp = 16 ∧ f = .stackOverflow) ∨
      (i = .op00EE ∧ s.sp = 0 ∧ f = .stackUnderflow) := by
  cases i
  case op2NNN nnn => exact .inl ⟨nnn, rfl, exec_2NNN_eq_fault.1 h⟩
  case op00EE => exact .inr ⟨rfl, exec_00EE_eq_fault.1 h⟩
  case opFX0A x =>
    by_cases hkey : ∃ k : Key, s.key[k] = true
    · obtain ⟨k, hk⟩ := hkey
      obtain ⟨j, _, hread⟩ := exec_FX0A_of_key x hk
      cases hread.symm.trans h
    · have hnone : ∀ k : Key, s.key[k] = false := fun k => Bool.eq_false_iff.2 fun hk => hkey ⟨k, hk⟩
      cases (exec_FX0A_of_no_key x hnone).symm.trans h
  all_goals cases h

/-- Settles O28: the two faults of the execute stage, at the bounds of `sp`. -/
theorem callAndReturnFaultAtTheBounds : Obligations.CallAndReturnFaultAtTheBounds :=
  ⟨fun _ _ hsp => exec_2NNN_eq_fault.2 ⟨hsp, rfl⟩, fun _ hsp => exec_00EE_eq_fault.2 ⟨hsp, rfl⟩⟩

/-! ### A whole step -/

/-- A step faults exactly when the execute stage of its decoded instruction does: neither admission nor the
unknown word is a fault (R271). -/
theorem step_eq_fault {s : State} {f : Fault} :
    step s = .fault f ↔ s.ready = true ∧ ∃ i, decode s.fetch = .ok i ∧ exec i s = .fault f := by
  constructor
  · intro h
    cases hr : s.ready with
    | false => cases (step_of_not_ready hr).symm.trans h
    | true =>
      cases hd : decode s.fetch with
      | error e => cases (step_of_unknown hr hd).symm.trans h
      | ok i => exact ⟨rfl, i, rfl, retire_eq_fault.1 ((step_of_decoded hr hd).symm.trans h)⟩
  · rintro ⟨hr, i, hi, hx⟩
    exact (step_of_decoded hr hi).trans (retire_eq_fault.2 hx)

/-- Settles O10: a step faults as its execute stage does, and `exec_eq_fault` tells the two faults apart. -/
theorem onlyStackFaults : Obligations.OnlyStackFaults := by
  intro s
  constructor
  · constructor
    · intro h
      obtain ⟨hr, i, hi, hx⟩ := step_eq_fault.1 h
      obtain ⟨nnn, rfl, hsp, _⟩ | ⟨_, _, hf⟩ := exec_eq_fault hx
      · exact ⟨hr, hsp, nnn, hi⟩
      · cases hf
    · rintro ⟨hr, hsp, nnn, hi⟩
      exact step_eq_fault.2 ⟨hr, _, hi, exec_2NNN_eq_fault.2 ⟨hsp, rfl⟩⟩
  · constructor
    · intro h
      obtain ⟨hr, i, hi, hx⟩ := step_eq_fault.1 h
      obtain ⟨_, _, _, hf⟩ | ⟨rfl, hsp, _⟩ := exec_eq_fault hx
      · cases hf
      · exact ⟨hr, hsp, hi⟩
    · rintro ⟨hr, hsp, hi⟩
      exact step_eq_fault.2 ⟨hr, _, hi, exec_00EE_eq_fault.2 ⟨hsp, rfl⟩⟩

end Sys2Proof.Machine
end

section
/-!
PROOFS of the family 70_reset_and_hazards.md (spec/70_reset_and_hazards.md R305, R311, R312): the delay timer read
back one step after it is set, and the first step from an empty ROM.
-/

namespace Sys2Proof.Machine

/-! ### The delay timer set and read back (R311, R312) -/

/-- FX15 leaves VX in the delay timer, already counted down by its own step's tick (R225). -/
theorem step_FX15_dt {x : Reg} {s t : State} (hi : decode s.fetch = .ok (.opFX15 x))
    (h : step s = .next t) : t.dt = countDown (s.getV x) := by
  obtain ⟨hr, _⟩ := step_eq_next h
  have hstep : step s = .next ({ s with dt := s.getV x } : State).sequential.tick :=
    step_of_completed hr hi rfl rfl
  obtain rfl := Host.Outcome.next.inj (h.symm.trans hstep)
  rfl

/-- FX07 reads the delay timer as it was before its own step's tick (R224). -/
theorem step_FX07_getV {y : Reg} {s : State} (hr : s.ready = true)
    (hi : decode s.fetch = .ok (.opFX07 y)) : ∃ t, step s = .next t ∧ t.getV y = s.dt :=
  ⟨(s.setV y s.dt).sequential.tick, step_of_completed hr hi rfl rfl, State.getV_setV_self s y s.dt⟩

/-- Settles O55: FX07 reads what FX15 left, one count below VX; its own tick comes too late to be seen. -/
theorem delayReadsBackOneLess : Obligations.DelayReadsBackOneLess := by
  intro x y s t hset h hread
  obtain ⟨_, hready⟩ := stepsNeverWriteKeys s t h
  obtain ⟨u, hu, hy⟩ := step_FX07_getV hready hread
  refine ⟨u, hu, ?_⟩
  rw [hy, step_FX15_dt hset h, countDown_toNat]

/-! ### The empty ROM (R305) -/

theorem fetch_reset : State.reset.fetch = 0x0000 := by decide

/-- Settles O57: the word at 0x200 of an empty ROM is 0x0000, which is no instruction. -/
theorem emptyRomStopsAtOnce : Obligations.EmptyRomStopsAtOnce := by
  have hunknown : decode State.reset.fetch = .error (.unknownOpcode 0x0000) := by
    rw [fetch_reset]
    rfl
  have hstep := step_of_unknown rfl hunknown
  rw [fetch_reset] at hstep
  exact ⟨resetRom_of_le State.reset (Nat.zero_le _), hstep⟩

end Sys2Proof.Machine
end

section
/-!
PROOFS of the decode vectors (spec/95_test_vectors.md section 2.2).
-/

namespace Sys2Proof.Laws

/-- Settles O4: eight of the words are the words of instructions, which decode back (O1); the other two are in the
families 0 and 5, each with a bit set that its family fixes at 0. -/
theorem specWordsDecode : Obligations.SpecWordsDecode :=
  ⟨decodeOfEncode .op00E0, decodeOfEncode .op00EE, decodeOfEncode (.op1NNN 0xABC),
    decodeOfEncode (.op3XNN 0xA 0x7F), decodeOfEncode (.op5XY0 0xC 0xD),
    decodeOfEncode (.op8XYE 0xA 0xB), decodeOfEncode (.opDXYN 0x1 0x2 0x5),
    decodeOfEncode (.opFX55 0x6), rfl, rfl⟩

end Sys2Proof.Laws
end
